-- ==== Sys2Proof/Word.lean ====
section
/-! DEFINITION. The words of the machine (spec/00_scope.md R6, R7; spec/10_state.md R20, R24, R26; spec/30_encoding.md
R92): bytes, 16-bit addresses, opcodes, the 12-bit address operand, and register numbers. -/

namespace Sys2Proof

/-- A byte: a general register, a memory cell, a timer, an immediate NN (R20, R30, R34, R92). -/
abbrev Byte := BitVec 8

/-- A 16-bit value of the address register I, of PC or of a call-stack slot (R24, R26, R28). -/
abbrev Addr := BitVec 16

/-- The 16-bit instruction word (R90). -/
abbrev Opcode := BitVec 16

/-- The 12-bit address operand NNN (R92), also the address of a Load (R44). -/
abbrev Addr12 := BitVec 12

/-- The number of a general register, 0..15; every one is legal in an X or Y field (R20, R93). -/
abbrev Reg := Fin 16

/-- VF, register 15, the flag register (R23). -/
abbrev VF : Reg := 15

end Sys2Proof
end

