-- ==== Sys2Proof/Syntax.lean ====
section
/-! DEFINITION. The instructions: one constructor per row of the opcode map (spec/30_encoding.md R96), in its order.
The fields are those of R92: x and y register numbers, n a count 0..15, nn a byte, nnn a 12-bit address (R93: every
value of each is legal). -/

namespace Sys2Proof

/-- The 34 instructions of spec/30_encoding.md R96. -/
inductive Instr where
  /-- 00E0, CLS (R190). -/
  | cls
  /-- 00EE, RET (R120). -/
  | ret
  /-- 1NNN, JP addr (R121). -/
  | jp (nnn : Addr12)
  /-- 2NNN, CALL addr (R122). -/
  | call (nnn : Addr12)
  /-- 3XNN, SE Vx, byte (R124). -/
  | seByte (x : Reg) (nn : Byte)
  /-- 4XNN, SNE Vx, byte (R125). -/
  | sneByte (x : Reg) (nn : Byte)
  /-- 5XY0, SE Vx, Vy (R126). -/
  | seReg (x y : Reg)
  /-- 6XNN, LD Vx, byte (R140). -/
  | ldByte (x : Reg) (nn : Byte)
  /-- 7XNN, ADD Vx, byte (R141). -/
  | addByte (x : Reg) (nn : Byte)
  /-- 8XY0, LD Vx, Vy (R144). -/
  | ldReg (x y : Reg)
  /-- 8XY1, OR Vx, Vy (R145). -/
  | orReg (x y : Reg)
  /-- 8XY2, AND Vx, Vy (R146). -/
  | andReg (x y : Reg)
  /-- 8XY3, XOR Vx, Vy (R147). -/
  | xorReg (x y : Reg)
  /-- 8XY4, ADD Vx, Vy (R148). -/
  | addReg (x y : Reg)
  /-- 8XY5, SUB Vx, Vy (R149). -/
  | subReg (x y : Reg)
  /-- 8XY6, SHR Vx (R150); the Y field is encoded and ignored (R94). -/
  | shr (x y : Reg)
  /-- 8XY7, SUBN Vx, Vy (R151). -/
  | subn (x y : Reg)
  /-- 8XYE, SHL Vx (R152); the Y field is encoded and ignored (R94). -/
  | shl (x y : Reg)
  /-- 9XY0, SNE Vx, Vy (R127). -/
  | sneReg (x y : Reg)
  /-- ANNN, LD I, addr (R170). -/
  | ldI (nnn : Addr12)
  /-- BNNN, JP V0, addr (R123). -/
  | jpV0 (nnn : Addr12)
  /-- CXNN, RND Vx, byte (R160). -/
  | rnd (x : Reg) (nn : Byte)
  /-- DXYN, DRW Vx, Vy, nibble (R193). -/
  | drw (x y : Reg) (n : Fin 16)
  /-- EX9E, SKP Vx (R214). -/
  | skp (x : Reg)
  /-- EXA1, SKNP Vx (R215). -/
  | sknp (x : Reg)
  /-- FX07, LD Vx, DT (R210). -/
  | ldVxDt (x : Reg)
  /-- FX0A, LD Vx, K (R217). -/
  | ldVxK (x : Reg)
  /-- FX15, LD DT, Vx (R211). -/
  | ldDtVx (x : Reg)
  /-- FX18, LD ST, Vx (R212). -/
  | ldStVx (x : Reg)
  /-- FX1E, ADD I, Vx (R171). -/
  | addI (x : Reg)
  /-- FX29, LD F, Vx (R172). -/
  | ldF (x : Reg)
  /-- FX33, LD B, Vx (R173). -/
  | ldB (x : Reg)
  /-- FX55, LD [I], Vx (R176). -/
  | ldMemVx (x : Reg)
  /-- FX65, LD Vx, [I] (R177). -/
  | ldVxMem (x : Reg)
  deriving DecidableEq, Repr

end Sys2Proof
end

