-- ==== Sys2Proof/Decode.lean ====
section
/-! DEFINITION. The decoder (spec/30_encoding.md R92, R95, R96, R100), total on any bytes, rejecting by name; then the
encoder, written from the same table; then the table itself as data. -/

namespace Sys2Proof

/-- Why bytes are no instruction. The unrecognised ones are the rows of R100's table, one name a family; the word is then
a no-op of the machine, not an error of it (R100, R101). -/
inductive Reject where
  /-- Fewer than the two bytes of an instruction word (R90). The machine's own fetch never gives that few. -/
  | truncated
  /-- 0x0000 to 0x0FFF except 0x00E0 and 0x00EE. -/
  | family0
  /-- 5XYN with N ≠ 0. -/
  | family5
  /-- 8XYN with N in 8, 9, A, B, C, D, F. -/
  | family8
  /-- 9XYN with N ≠ 0. -/
  | family9
  /-- EXNN with NN not 9E or A1. -/
  | familyE
  /-- FXNN with NN not one of the nine of R100. -/
  | familyF
  deriving DecidableEq, Repr

/-! The fields of R92. -/

/-- T, bits 15:12. -/
def fieldT (w : Opcode) : Fin 16 := (w.extractLsb' 12 4).toFin

/-- X, bits 11:8. -/
def fieldX (w : Opcode) : Reg := (w.extractLsb' 8 4).toFin

/-- Y, bits 7:4. -/
def fieldY (w : Opcode) : Reg := (w.extractLsb' 4 4).toFin

/-- N, bits 3:0. -/
def fieldN (w : Opcode) : Fin 16 := (w.extractLsb' 0 4).toFin

/-- NN, bits 7:0. -/
def fieldNN (w : Opcode) : Byte := w.extractLsb' 0 8

/-- NNN, bits 11:0. -/
def fieldNNN (w : Opcode) : Addr12 := w.extractLsb' 0 12

/-! The second level of R95: one function a family that has one. -/

/-- Family 0: the whole word must be 0x00E0 or 0x00EE (R95). -/
def decode0 (w : Opcode) : Except Reject Instr :=
  match (fieldNNN w).toNat with
  | 0x0E0 => .ok .cls
  | 0x0EE => .ok .ret
  | _ => .error .family0

/-- Family 5: the low nibble must be 0 (R95). -/
def decode5 (w : Opcode) : Except Reject Instr :=
  match (fieldN w).val with
  | 0 => .ok (.seReg (fieldX w) (fieldY w))
  | _ => .error .family5

/-- Family 8: the low nibble selects (R95). -/
def decode8 (w : Opcode) : Except Reject Instr :=
  match (fieldN w).val with
  | 0x0 => .ok (.ldReg (fieldX w) (fieldY w))
  | 0x1 => .ok (.orReg (fieldX w) (fieldY w))
  | 0x2 => .ok (.andReg (fieldX w) (fieldY w))
  | 0x3 => .ok (.xorReg (fieldX w) (fieldY w))
  | 0x4 => .ok (.addReg (fieldX w) (fieldY w))
  | 0x5 => .ok (.subReg (fieldX w) (fieldY w))
  | 0x6 => .ok (.shr (fieldX w) (fieldY w))
  | 0x7 => .ok (.subn (fieldX w) (fieldY w))
  | 0xE => .ok (.shl (fieldX w) (fieldY w))
  | _ => .error .family8

/-- Family 9: the low nibble must be 0 (R95). -/
def decode9 (w : Opcode) : Except Reject Instr :=
  match (fieldN w).val with
  | 0 => .ok (.sneReg (fieldX w) (fieldY w))
  | _ => .error .family9

/-- Family E: the low byte selects (R95). -/
def decodeE (w : Opcode) : Except Reject Instr :=
  match (fieldNN w).toNat with
  | 0x9E => .ok (.skp (fieldX w))
  | 0xA1 => .ok (.sknp (fieldX w))
  | _ => .error .familyE

/-- Family F: the low byte selects (R95). -/
def decodeF (w : Opcode) : Except Reject Instr :=
  match (fieldNN w).toNat with
  | 0x07 => .ok (.ldVxDt (fieldX w))
  | 0x0A => .ok (.ldVxK (fieldX w))
  | 0x15 => .ok (.ldDtVx (fieldX w))
  | 0x18 => .ok (.ldStVx (fieldX w))
  | 0x1E => .ok (.addI (fieldX w))
  | 0x29 => .ok (.ldF (fieldX w))
  | 0x33 => .ok (.ldB (fieldX w))
  | 0x55 => .ok (.ldMemVx (fieldX w))
  | 0x65 => .ok (.ldVxMem (fieldX w))
  | _ => .error .familyF

/-- The first level of R95: the type nibble selects the family. The last arm is 0xF, a nibble being at most 15. -/
def decodeWord (w : Opcode) : Except Reject Instr :=
  match (fieldT w).val with
  | 0x0 => decode0 w
  | 0x1 => .ok (.jp (fieldNNN w))
  | 0x2 => .ok (.call (fieldNNN w))
  | 0x3 => .ok (.seByte (fieldX w) (fieldNN w))
  | 0x4 => .ok (.sneByte (fieldX w) (fieldNN w))
  | 0x5 => decode5 w
  | 0x6 => .ok (.ldByte (fieldX w) (fieldNN w))
  | 0x7 => .ok (.addByte (fieldX w) (fieldNN w))
  | 0x8 => decode8 w
  | 0x9 => decode9 w
  | 0xA => .ok (.ldI (fieldNNN w))
  | 0xB => .ok (.jpV0 (fieldNNN w))
  | 0xC => .ok (.rnd (fieldX w) (fieldNN w))
  | 0xD => .ok (.drw (fieldX w) (fieldY w) (fieldN w))
  | 0xE => decodeE w
  | _ => decodeF w

/-- Big-endian: the byte at the lower address is opcode bits 15:8 (spec/20_memory.md R61). -/
def wordOfBytes (hi lo : Byte) : Opcode := hi ++ lo

/-- The byte at the lower address (R61). -/
def hiByte (w : Opcode) : Byte := w.extractLsb' 8 8

/-- The byte at the higher address (R61). -/
def loByte (w : Opcode) : Byte := w.extractLsb' 0 8

/-- Decode the first instruction of any bytes: it and the bytes after it, or why there is none. -/
def decode : List Byte → Except Reject (Instr × List Byte)
  | hi :: lo :: rest => (decodeWord (wordOfBytes hi lo)).map (·, rest)
  | _ => .error .truncated

/-! The encoder, from the patterns of R96. -/

/-- A nibble T followed by NNN: the format T_NNN of R91. -/
def wordNNN (t : BitVec 4) (nnn : Addr12) : Opcode := t ++ nnn

/-- The format T_X_NN of R91, and T_X_ff with the sub-opcode as NN. -/
def wordXNN (t : BitVec 4) (x : Reg) (nn : Byte) : Opcode := t ++ ((BitVec.ofFin x : BitVec 4) ++ nn : BitVec 12)

/-- The format T_X_Y_N of R91, and T_X_Y_f with the sub-opcode as N. -/
def wordXYN (t : BitVec 4) (x y n : Fin 16) : Opcode :=
  t ++ ((BitVec.ofFin x : BitVec 4) ++ ((BitVec.ofFin y : BitVec 4) ++ (BitVec.ofFin n : BitVec 4) : BitVec 8) : BitVec 12)

/-- The word of an instruction (R96, the pattern column). -/
def encodeWord : Instr → Opcode
  | .cls => wordNNN 0x0 0x0E0
  | .ret => wordNNN 0x0 0x0EE
  | .jp nnn => wordNNN 0x1 nnn
  | .call nnn => wordNNN 0x2 nnn
  | .seByte x nn => wordXNN 0x3 x nn
  | .sneByte x nn => wordXNN 0x4 x nn
  | .seReg x y => wordXYN 0x5 x y 0x0
  | .ldByte x nn => wordXNN 0x6 x nn
  | .addByte x nn => wordXNN 0x7 x nn
  | .ldReg x y => wordXYN 0x8 x y 0x0
  | .orReg x y => wordXYN 0x8 x y 0x1
  | .andReg x y => wordXYN 0x8 x y 0x2
  | .xorReg x y => wordXYN 0x8 x y 0x3
  | .addReg x y => wordXYN 0x8 x y 0x4
  | .subReg x y => wordXYN 0x8 x y 0x5
  | .shr x y => wordXYN 0x8 x y 0x6
  | .subn x y => wordXYN 0x8 x y 0x7
  | .shl x y => wordXYN 0x8 x y 0xE
  | .sneReg x y => wordXYN 0x9 x y 0x0
  | .ldI nnn => wordNNN 0xA nnn
  | .jpV0 nnn => wordNNN 0xB nnn
  | .rnd x nn => wordXNN 0xC x nn
  | .drw x y n => wordXYN 0xD x y n
  | .skp x => wordXNN 0xE x 0x9E
  | .sknp x => wordXNN 0xE x 0xA1
  | .ldVxDt x => wordXNN 0xF x 0x07
  | .ldVxK x => wordXNN 0xF x 0x0A
  | .ldDtVx x => wordXNN 0xF x 0x15
  | .ldStVx x => wordXNN 0xF x 0x18
  | .addI x => wordXNN 0xF x 0x1E
  | .ldF x => wordXNN 0xF x 0x29
  | .ldB x => wordXNN 0xF x 0x33
  | .ldMemVx x => wordXNN 0xF x 0x55
  | .ldVxMem x => wordXNN 0xF x 0x65

/-- The bytes of an instruction as memory holds them, high byte first (R61, R90). -/
def encode (i : Instr) : List Byte := [hiByte (encodeWord i), loByte (encodeWord i)]

/-! The opcode map as data: the mask and match columns of R96. -/

/-- One row of R96: `w` is the row's instruction when `w &&& mask = pattern`. -/
structure Row where
  mask : Opcode
  pattern : Opcode
  deriving DecidableEq, Repr

/-- Whether a word matches a row (R96). -/
def Row.covers (r : Row) (w : Opcode) : Bool := w &&& r.mask == r.pattern

/-- The row of R96 an instruction stands in. -/
def rowOf : Instr → Row
  | .cls => ⟨0xFFFF, 0x00E0⟩
  | .ret => ⟨0xFFFF, 0x00EE⟩
  | .jp _ => ⟨0xF000, 0x1000⟩
  | .call _ => ⟨0xF000, 0x2000⟩
  | .seByte _ _ => ⟨0xF000, 0x3000⟩
  | .sneByte _ _ => ⟨0xF000, 0x4000⟩
  | .seReg _ _ => ⟨0xF00F, 0x5000⟩
  | .ldByte _ _ => ⟨0xF000, 0x6000⟩
  | .addByte _ _ => ⟨0xF000, 0x7000⟩
  | .ldReg _ _ => ⟨0xF00F, 0x8000⟩
  | .orReg _ _ => ⟨0xF00F, 0x8001⟩
  | .andReg _ _ => ⟨0xF00F, 0x8002⟩
  | .xorReg _ _ => ⟨0xF00F, 0x8003⟩
  | .addReg _ _ => ⟨0xF00F, 0x8004⟩
  | .subReg _ _ => ⟨0xF00F, 0x8005⟩
  | .shr _ _ => ⟨0xF00F, 0x8006⟩
  | .subn _ _ => ⟨0xF00F, 0x8007⟩
  | .shl _ _ => ⟨0xF00F, 0x800E⟩
  | .sneReg _ _ => ⟨0xF00F, 0x9000⟩
  | .ldI _ => ⟨0xF000, 0xA000⟩
  | .jpV0 _ => ⟨0xF000, 0xB000⟩
  | .rnd _ _ => ⟨0xF000, 0xC000⟩
  | .drw _ _ _ => ⟨0xF000, 0xD000⟩
  | .skp _ => ⟨0xF0FF, 0xE09E⟩
  | .sknp _ => ⟨0xF0FF, 0xE0A1⟩
  | .ldVxDt _ => ⟨0xF0FF, 0xF007⟩
  | .ldVxK _ => ⟨0xF0FF, 0xF00A⟩
  | .ldDtVx _ => ⟨0xF0FF, 0xF015⟩
  | .ldStVx _ => ⟨0xF0FF, 0xF018⟩
  | .addI _ => ⟨0xF0FF, 0xF01E⟩
  | .ldF _ => ⟨0xF0FF, 0xF029⟩
  | .ldB _ => ⟨0xF0FF, 0xF033⟩
  | .ldMemVx _ => ⟨0xF0FF, 0xF055⟩
  | .ldVxMem _ => ⟨0xF0FF, 0xF065⟩

/-- All 34 rows of R96, in its order. -/
def opcodeMap : List Row :=
  [⟨0xFFFF, 0x00E0⟩, ⟨0xFFFF, 0x00EE⟩, ⟨0xF000, 0x1000⟩, ⟨0xF000, 0x2000⟩, ⟨0xF000, 0x3000⟩, ⟨0xF000, 0x4000⟩,
   ⟨0xF00F, 0x5000⟩, ⟨0xF000, 0x6000⟩, ⟨0xF000, 0x7000⟩] ++
  [⟨0xF00F, 0x8000⟩, ⟨0xF00F, 0x8001⟩, ⟨0xF00F, 0x8002⟩, ⟨0xF00F, 0x8003⟩, ⟨0xF00F, 0x8004⟩, ⟨0xF00F, 0x8005⟩,
   ⟨0xF00F, 0x8006⟩, ⟨0xF00F, 0x8007⟩, ⟨0xF00F, 0x800E⟩, ⟨0xF00F, 0x9000⟩] ++
  [⟨0xF000, 0xA000⟩, ⟨0xF000, 0xB000⟩, ⟨0xF000, 0xC000⟩, ⟨0xF000, 0xD000⟩, ⟨0xF0FF, 0xE09E⟩, ⟨0xF0FF, 0xE0A1⟩] ++
  [⟨0xF0FF, 0xF007⟩, ⟨0xF0FF, 0xF00A⟩, ⟨0xF0FF, 0xF015⟩, ⟨0xF0FF, 0xF018⟩, ⟨0xF0FF, 0xF01E⟩, ⟨0xF0FF, 0xF029⟩,
   ⟨0xF0FF, 0xF033⟩, ⟨0xF0FF, 0xF055⟩, ⟨0xF0FF, 0xF065⟩]

/-- The instruction the decoder reads from the table word `w` of `nbits` bits: bits above `nbits` are 0, the word is laid
out high byte first and given to `decode`. -/
def decodeTableWord (nbits w : Nat) : Option Instr :=
  let word : Opcode := BitVec.ofNat 16 (w % 2 ^ nbits)
  match decode [hiByte word, loByte word] with
  | .ok (i, _) => some i
  | .error _ => none

end Sys2Proof
end

