-- ==== Sys2Proof/Config.lean ====
section
/-! DEFINITION. What one core fixes and the spec leaves as a parameter (spec/00_scope.md R6), and the free values of
a cycle (spec/10_state.md R40, R41), which have no body, so that no proof can see them. -/

namespace Sys2Proof

/-- KEY_OOR: what a key index above 15 reads as (spec/44_timers_keys.md R216, decision D8). -/
inductive KeyOor where
  /-- There is no such key, so it is not pressed (the spec's default). -/
  | notPressed
  /-- The key named by the low nibble of the index (the spec's alternative). -/
  | lowNibble
  deriving DecidableEq, Repr

/-- The parameters of one core. State holds one `Config`, which no step changes, so a statement about every state is a
statement about every core. -/
structure Config where
  /-- STACK_DEPTH: the capacity of the call stack in return addresses (spec/10_state.md R28, decision D1). -/
  stackDepth : Nat
  /-- FONT[0..79]: the glyph bytes at 0x000 to 0x04F (spec/10_state.md R31, decision D13). -/
  font : List Byte
  /-- KEY_OOR (spec/44_timers_keys.md R216, decision D8). -/
  keyOor : KeyOor
  deriving DecidableEq, Repr

/-- The free key samples: any 16-bit value may be sampled at any cycle (spec/10_state.md R40; log 2). -/
opaque Config.freeKeys : Nat → BitVec 16

/-- The free random bytes: "a free input of each cycle, unconstrained by any rule" (spec/10_state.md R41; log 2). -/
opaque Config.freeByte : Nat → Byte

end Sys2Proof
end

