-- ==== Sys2Proof/Machine/Defaults.lean ====
section
/-! DEFINITION. The default parameters (spec/00_scope.md R6) and the contents of a blank display. -/

namespace Sys2Proof.Machine

/-- The default FONT, the table of spec/10_state.md R31 (PRESUMED: "from general knowledge, not in source"; log 7). -/
def defaultFont : List Byte :=
  [0xF0, 0x90, 0x90, 0x90, 0xF0] ++ [0x20, 0x60, 0x20, 0x20, 0x70] ++
  [0xF0, 0x10, 0xF0, 0x80, 0xF0] ++ [0xF0, 0x10, 0xF0, 0x10, 0xF0] ++
  [0x90, 0x90, 0xF0, 0x10, 0x10] ++ [0xF0, 0x80, 0xF0, 0x10, 0xF0] ++
  [0xF0, 0x80, 0xF0, 0x90, 0xF0] ++ [0xF0, 0x10, 0x20, 0x40, 0x40] ++
  [0xF0, 0x90, 0xF0, 0x90, 0xF0] ++ [0xF0, 0x90, 0xF0, 0x10, 0xF0] ++
  [0xF0, 0x90, 0xF0, 0x90, 0x90] ++ [0xE0, 0x90, 0xE0, 0x90, 0xE0] ++
  [0xF0, 0x80, 0x80, 0x80, 0xF0] ++ [0xE0, 0x90, 0x90, 0x90, 0xE0] ++
  [0xF0, 0x80, 0xF0, 0x80, 0xF0] ++ [0xF0, 0x80, 0xF0, 0x80, 0x80]

/-- The default parameters: STACK_DEPTH 16 (D1; log 6), FONT as above (D13; log 7), KEY_OOR "not pressed" (D8; log 8). -/
def defaultConfig : Config := { stackDepth := 16, font := defaultFont, keyOor := .notPressed }

/-- A display with every cell off, 32 rows of 64 cells (spec/10_state.md R32). -/
def blankDisplay : Vector (BitVec 64) 32 := Vector.replicate 32 0

/-- The entry point, the reset value of PC and the place the ROM is loaded at (spec/10_state.md R26). -/
def entryPoint : Addr := 0x0200

end Sys2Proof.Machine
end

