-- ==== Sys2Proof/Machine/State.lean ====
section
/-! DEFINITION. The state of the machine: every piece of spec/10_state.md section 1, the parameters of the core
(spec/00_scope.md R6), the samples of the cycle in progress, and the host as plain data (INVENTORY.md, "## State"). -/

namespace Sys2Proof.Machine

/-- The FAULT register (spec/10_state.md R39): codes 0, 1, 2; code 3 is "never produced" and has no name here (log 11). -/
inductive FaultCode where
  /-- 0: no fatal condition. -/
  | none
  /-- 1: StackOverflow (spec/60_exceptions.md R231). -/
  | stackOverflow
  /-- 2: StackUnderflow (spec/60_exceptions.md R232). -/
  | stackUnderflow
  deriving DecidableEq, Repr

/-- The atomic events of the host (spec/10_state.md R44). -/
inductive HostEvent where
  /-- Reset (spec/70_reset_and_hazards.md R270). -/
  | reset
  /-- Load(a, b) (R276). -/
  | load (a : Addr12) (b : Byte)
  /-- Cycle(keys, rnd) (spec/20_memory.md R70). -/
  | cycle (keys : BitVec 16) (rnd : Byte)
  /-- Tick (spec/44_timers_keys.md R218). -/
  | tick
  /-- RenderAck (spec/60_exceptions.md R249). -/
  | renderAck
  deriving DecidableEq, Repr

/-- MEM as the bytes that differ from their reset contents: addresses strictly rising, below 4096 (`Memory.wf`). -/
abbrev Memory := List Host.Cell

/-- FB: 32 rows, top first, of 64 one-bit cells (spec/10_state.md R32). Cell x of a row is bit x of its 64 bits; no rule
numbers the bits of a row, and only `pixel` and `setPixel` of Machine/Ops.lean look inside one. -/
abbrev Display := Vector (BitVec 64) 32

/-- The whole state. -/
structure State where
  /-- V0..VF (spec/10_state.md R20). -/
  v : Vector Byte 16
  /-- The address register I (R24). -/
  i : Addr
  /-- The program counter (R26); during an instruction's execute phase, A + 2. -/
  pc : Addr
  /-- SP, the number of return addresses held (R29). -/
  sp : Nat
  /-- STACK[0..STACK_DEPTH-1] (R28). -/
  stack : List Addr
  /-- MEM (R30). -/
  mem : Memory
  /-- FB (R32). -/
  fb : Display
  /-- The delay timer (R34). -/
  dt : Byte
  /-- The sound timer (R35). -/
  st : Byte
  /-- DIRTY (R38). -/
  dirty : Bool
  /-- FAULT (R39). -/
  fault : FaultCode
  /-- KEYS: the key sample of the cycle in progress (R40; log 1). -/
  keys : BitVec 16
  /-- rnd: the random byte of the cycle in progress (R41; log 1). -/
  rnd : Byte
  /-- The parameters of this core (spec/00_scope.md R6); no step changes them. -/
  config : Config
  /-- The MODEL's own: the host events not yet delivered, oldest first (log 3). -/
  inbox : List HostEvent
  /-- The MODEL's own: how many free cycles have been drawn (log 2). -/
  draws : Nat
  /-- The MODEL's own: whether a Cycle has run since the last Reset, so that a Load is no longer legal (log 5). -/
  running : Bool
  deriving DecidableEq, Repr

/-- Why a run stops. The core itself never stops one: a fatal condition is a next state (spec/60_exceptions.md R233). -/
inductive Fault where
  /-- Raised by `step` when the host issues a Load after the first Cycle, a write to which "no rule gives ... a meaning"
  (spec/20_memory.md R76). Safe: the model stops where a real host might go on (log 5). -/
  | loadDuringRun
  deriving DecidableEq, Repr

/-- Why an instruction is refused. -/
inductive Refusal where
  /-- The instruction with this mnemonic has no meaning yet; raised by `exec`'s arm only, and by no arm now. Safe. -/
  | notModelled (mnemonic : String)
  deriving DecidableEq, Repr

/-- What a meaning or a step answers. -/
abbrev Answer := Host.Outcome State Fault Refusal

/-- The state a Reset leaves on a core with parameters `c` (spec/10_state.md R50, spec/70_reset_and_hazards.md R270). -/
def State.resetWith (c : Config) : State where
  v := Vector.replicate 16 0x00
  i := 0x0000
  pc := entryPoint
  sp := 0
  stack := List.replicate c.stackDepth 0x0000
  mem := []
  fb := blankDisplay
  dt := 0x00
  st := 0x00
  dirty := false
  fault := .none
  keys := 0x0000
  rnd := 0x00
  config := c
  inbox := []
  draws := 0
  running := false

/-- The machine right after reset, on a core with the default parameters. -/
def State.reset : State := State.resetWith defaultConfig

end Sys2Proof.Machine
end

