-- ==== Sys2Proof/Machine/Ops.lean ====
section
/-! DEFINITION. The operations every meaning shares: registers, memory, the call stack, the fatal conditions, the
display. Each is the one place its register or memory is read or written. -/

namespace Sys2Proof.Machine

/-! General registers (spec/10_state.md R20, R21). -/

/-- `V[r]`. -/
def readV (s : State) (r : Reg) : Byte := s.v[r.val]

/-- `V[r] <- b`. -/
def writeV (r : Reg) (b : Byte) (s : State) : State := { s with v := s.v.set r.val b }

/-! Memory as a canonical list over what an unlisted address reads as, `base`. -/

/-- The byte at address `a`. -/
def Memory.read (base : Nat → Byte) : Memory → Nat → Byte
  | [], a => base a
  | (k, b) :: m, a => if k = a then b else Memory.read base m a

/-- Address `a` takes the byte `b`; an entry that would say what an unlisted address reads as is left out. -/
def Memory.write (base : Nat → Byte) : Memory → Nat → Byte → Memory
  | [], a, b => if b = base a then [] else [(a, b)]
  | (k, c) :: m, a, b =>
    if a < k then (if b = base a then (k, c) :: m else (a, b) :: (k, c) :: m)
    else if a = k then (if b = base a then m else (a, b) :: m)
    else (k, c) :: Memory.write base m a b

/-- The canonical form: addresses strictly rising, below 4096, no entry equal to what an unlisted address reads as. -/
def Memory.wf (base : Nat → Byte) : Memory → Bool
  | [] => true
  | (k, b) :: m => k < 4096 && b != base k && m.all (fun c => k < c.1) && Memory.wf base m

/-- What an address nothing has written reads as: its reset contents, FONT at 0x000..0x04F and 0x00 elsewhere
(spec/10_state.md R50, spec/20_memory.md R66). -/
def unlisted (c : Config) (a : Nat) : Byte := if a < 80 then c.font.getD a 0x00 else 0x00

/-- The byte of memory an address value reaches: its low 12 bits (spec/20_memory.md R62, R63). -/
def effective (a : Addr) : Nat := (a &&& 0x0FFF).toNat

/-- `MemRead(a, 1)` (spec/20_memory.md R62). -/
def memRead (s : State) (a : Addr) : Byte := Memory.read (unlisted s.config) s.mem (effective a)

/-- `MemWrite(a, 1, b)` (spec/20_memory.md R63). -/
def memWrite (a : Addr) (b : Byte) (s : State) : State :=
  { s with mem := Memory.write (unlisted s.config) s.mem (effective a) b }

/-- The memory of a state is in canonical form. -/
def State.memWf (s : State) : Bool := Memory.wf (unlisted s.config) s.mem

/-! Special registers (spec/10_state.md R42). -/

/-- `I <- a`. -/
def setI (a : Addr) (s : State) : State := { s with i := a }

/-- `PC <- a`. -/
def setPc (a : Addr) (s : State) : State := { s with pc := a }

/-- `DT <- b`. -/
def setDt (b : Byte) (s : State) : State := { s with dt := b }

/-- `ST <- b`. -/
def setSt (b : Byte) (s : State) : State := { s with st := b }

/-- `DIRTY <- d`. -/
def setDirty (d : Bool) (s : State) : State := { s with dirty := d }

/-- A skip: 2 more on the post-fetch PC when `c` holds (spec/40_control_flow.md R128). -/
def skipIf (c : Bool) (s : State) : State := if c then setPc (s.pc + 2) s else s

/-! The call stack (spec/10_state.md R29). -/

/-- `STACK[SP] <- PC; SP <- SP + 1`. -/
def pushPc (s : State) : State := { s with stack := s.stack.set s.sp s.pc, sp := s.sp + 1 }

/-- `SP <- SP - 1; PC <- STACK[SP]`; the slot keeps its value. -/
def popPc (s : State) : State := { s with sp := s.sp - 1, pc := s.stack.getD (s.sp - 1) 0x0000 }

/-! The fatal conditions. -/

/-- TAKING a fatal condition (spec/60_exceptions.md R233): `FAULT <- code` and nothing else of the execute phase; PC keeps
the post-fetch value it has. There is no return beside it: "There is no return from a fatal condition" (R235), and the only
way out is the Reset event, `applyReset` of Machine/Events.lean. -/
def raiseFatal (code : FaultCode) (s : State) : State := { s with fault := code }

/-- The core is halted (spec/60_exceptions.md R234). -/
def halted (s : State) : Bool := s.fault != .none

/-! The display buffer (spec/10_state.md R32). -/

/-- `FB[y][x]`; off outside the buffer, where no rule reads. -/
def pixel (fb : Display) (x y : Nat) : Bool :=
  if h : x < 64 ∧ y < 32 then (fb[y]'h.2).getLsbD x else false

/-- `FB[y][x] <- b`; nothing outside the buffer, where no rule writes. -/
def setPixel (fb : Display) (x y : Nat) (b : Bool) : Display :=
  if h : x < 64 ∧ y < 32 then
    fb.set y (if b then fb[y]'h.2 ||| BitVec.twoPow 64 x else fb[y]'h.2 &&& ~~~BitVec.twoPow 64 x) h.2
  else fb

/-- The display buffer becomes `fb` and DIRTY is set, as 00E0 and DXYN do (spec/10_state.md R38). -/
def setDisplay (fb : Display) (s : State) : State := { s with fb := fb, dirty := true }

end Sys2Proof.Machine
end

