-- ==== Sys2Proof/Machine/Operands.lean ====
section
/-! DEFINITION. Every operand form: zero-extended immediates (spec/30_encoding.md R93), the one data addressing mode
(spec/42_index_memory.md R179), the key input (spec/44_timers_keys.md R216, R217), and the results that are no flag. -/

namespace Sys2Proof.Machine

/-- `zext_16(NNN)` (spec/30_encoding.md R93). -/
def zextAddr (nnn : Addr12) : Addr := nnn.setWidth 16

/-- `zext_16(b)` of a byte. -/
def zextByte (b : Byte) : Addr := b.setWidth 16

/-- The register with number `k`, for a loop counter `k` below 16 (spec/42_index_memory.md R176, R177). -/
def regOf (k : Nat) : Reg := Fin.ofNat 16 k

/-- `EA(k) = (I + k) mod 65536` (spec/42_index_memory.md R179). -/
def ea (s : State) (k : Nat) : Addr := s.i + BitVec.ofNat 16 k

/-- `Pressed(k)` (spec/44_timers_keys.md R216). -/
def pressed (s : State) (k : Byte) : Bool :=
  if k.toNat ≤ 15 then s.keys.getLsbD k.toNat
  else match s.config.keyOor with
    | .notPressed => false
    | .lowNibble => s.keys.getLsbD (k.toNat % 16)

/-- `min { k in 0..15 : KEYS[k] == 1 }` as a byte (spec/44_timers_keys.md R217); used only when a key is pressed. -/
def lowestKey (keys : BitVec 16) : Byte :=
  BitVec.ofNat 8 (((List.range 16).find? (fun k => keys.getLsbD k)).getD 0)

/-- `I + VX`, modulo 65536 (spec/42_index_memory.md R171). -/
def addIndex (i : Addr) (vx : Byte) : Addr := i + zextByte vx

/-- `VX × 5`, the address of the glyph of VX (spec/42_index_memory.md R172). -/
def glyphAddr (vx : Byte) : Addr := zextByte vx * 5

/-- The three decimal digits of a byte, hundreds, tens, ones for k = 0, 1, 2 (spec/42_index_memory.md R173). -/
def bcdDigit (vx : Byte) (k : Nat) : Byte :=
  match k with
  | 0 => BitVec.ofNat 8 (vx.toNat / 100)
  | 1 => BitVec.ofNat 8 (vx.toNat / 10 % 10)
  | _ => BitVec.ofNat 8 (vx.toNat % 10)

/-- The bit of a sprite byte that is column `col`: bit `7 - col`, leftmost pixel most significant (spec/43_display.md
R194, a decision of the spec; log 14). -/
def spriteBit (b : Byte) (col : Nat) : Bool := b.getLsbD (7 - col)

/-- `DT - 1`, clamped at 0 (spec/44_timers_keys.md R218). -/
def countDown (b : Byte) : Byte := if b = 0 then 0 else b - 1

end Sys2Proof.Machine
end

