-- ==== Sys2Proof/Machine/Flags.lean ====
section
/-! DEFINITION. Every flag computation (spec/10_state.md R23, spec/41_alu.md R161): the value VF takes, always 0x00 or
0x01. -/

namespace Sys2Proof.Machine

/-- A condition as the byte VF takes. -/
def flagByte (c : Bool) : Byte := if c then 0x01 else 0x00

/-- The carry of 8XY4: the unmodulated sum exceeds 255 (spec/41_alu.md R148). -/
def carry (a b : Byte) : Byte := flagByte (decide (a.toNat + b.toNat > 255))

/-- "No borrow" of `a - b`: a ≥ b, equality included (spec/41_alu.md R149, R151). -/
def noBorrow (a b : Byte) : Byte := flagByte (decide (a.toNat ≥ b.toNat))

/-- The bit 8XY6 shifts out (spec/41_alu.md R150). -/
def lowBit (a : Byte) : Byte := flagByte (a.getLsbD 0)

/-- The bit 8XYE shifts out (spec/41_alu.md R152). -/
def highBit (a : Byte) : Byte := flagByte (a.getLsbD 7)

/-- The result is written first, the flag second: 8XY4 (spec/41_alu.md R162). -/
def resultThenFlag (x : Reg) (result flag : Byte) (s : State) : State := writeV VF flag (writeV x result s)

/-- The flag is written first, the result second: 8XY5, 8XY6, 8XY7, 8XYE (spec/41_alu.md R162). -/
def flagThenResult (x : Reg) (flag result : Byte) (s : State) : State := writeV x result (writeV VF flag s)

end Sys2Proof.Machine
end

