-- ==== Sys2Proof/Machine/Alu.lean ====
section
/-! DEFINITION. Register loads, the ALU and the random byte (spec/41_alu.md). Both sources are sampled from the state on
entry (spec/00_scope.md R9), then written in the order the rule lists. -/

namespace Sys2Proof.Machine

/-- 6XNN (R140). -/
def execLdByte (x : Reg) (nn : Byte) (s : State) : Answer := .next (writeV x nn s)

/-- 7XNN (R141). -/
def execAddByte (x : Reg) (nn : Byte) (s : State) : Answer := .next (writeV x (readV s x + nn) s)

/-- 8XY0 (R144). -/
def execLdReg (x y : Reg) (s : State) : Answer := .next (writeV x (readV s y) s)

/-- 8XY1 (R145). -/
def execOrReg (x y : Reg) (s : State) : Answer := .next (writeV x (readV s x ||| readV s y) s)

/-- 8XY2 (R146). -/
def execAndReg (x y : Reg) (s : State) : Answer := .next (writeV x (readV s x &&& readV s y) s)

/-- 8XY3 (R147). -/
def execXorReg (x y : Reg) (s : State) : Answer := .next (writeV x (readV s x ^^^ readV s y) s)

/-- 8XY4 (R148). -/
def execAddReg (x y : Reg) (s : State) : Answer :=
  .next (resultThenFlag x (readV s x + readV s y) (carry (readV s x) (readV s y)) s)

/-- 8XY5 (R149). -/
def execSubReg (x y : Reg) (s : State) : Answer :=
  .next (flagThenResult x (noBorrow (readV s x) (readV s y)) (readV s x - readV s y) s)

/-- 8XY6 (R150); VY is neither read nor written (spec/30_encoding.md R94). -/
def execShr (x _y : Reg) (s : State) : Answer :=
  .next (flagThenResult x (lowBit (readV s x)) (readV s x >>> 1) s)

/-- 8XY7 (R151). -/
def execSubn (x y : Reg) (s : State) : Answer :=
  .next (flagThenResult x (noBorrow (readV s y) (readV s x)) (readV s y - readV s x) s)

/-- 8XYE (R152); VY is neither read nor written (spec/30_encoding.md R94). -/
def execShl (x _y : Reg) (s : State) : Answer :=
  .next (flagThenResult x (highBit (readV s x)) (readV s x <<< 1) s)

/-- CXNN (R160). -/
def execRnd (x : Reg) (nn : Byte) (s : State) : Answer := .next (writeV x (s.rnd &&& nn) s)

end Sys2Proof.Machine
end

