-- ==== Sys2Proof/Machine/Control.lean ====
section
/-! DEFINITION. Control transfer (spec/40_control_flow.md). On entry PC already holds A + 2. -/

namespace Sys2Proof.Machine

/-- 00EE (R120). -/
def execRet (s : State) : Answer :=
  .next (if s.sp = 0 then raiseFatal .stackUnderflow s else popPc s)

/-- 1NNN (R121). -/
def execJp (nnn : Addr12) (s : State) : Answer := .next (setPc (zextAddr nnn) s)

/-- 2NNN (R122). -/
def execCall (nnn : Addr12) (s : State) : Answer :=
  .next (if s.sp = s.config.stackDepth then raiseFatal .stackOverflow s else setPc (zextAddr nnn) (pushPc s))

/-- BNNN (R123). -/
def execJpV0 (nnn : Addr12) (s : State) : Answer := .next (setPc (zextAddr nnn + zextByte (readV s 0)) s)

/-- 3XNN (R124). -/
def execSeByte (x : Reg) (nn : Byte) (s : State) : Answer := .next (skipIf (readV s x == nn) s)

/-- 4XNN (R125). -/
def execSneByte (x : Reg) (nn : Byte) (s : State) : Answer := .next (skipIf (readV s x != nn) s)

/-- 5XY0 (R126). -/
def execSeReg (x y : Reg) (s : State) : Answer := .next (skipIf (readV s x == readV s y) s)

/-- 9XY0 (R127). -/
def execSneReg (x y : Reg) (s : State) : Answer := .next (skipIf (readV s x != readV s y) s)

end Sys2Proof.Machine
end

