-- ==== Sys2Proof/Machine/Display.lean ====
section
/-! DEFINITION. The display instructions: clear, and the sprite compositor with its collision detector
(spec/43_display.md). The loops are those of R193's pseudocode, a break being a return of what has been drawn. -/

namespace Sys2Proof.Machine

/-- A lit sprite bit lands on a cell: the cell flips, and a cell that was 1 is a collision (R193, R196). The pair is the
buffer and whether there has been a collision. -/
def plot (acc : Display × Bool) (x y : Nat) : Display × Bool :=
  (setPixel acc.1 x y (!pixel acc.1 x y), acc.2 || pixel acc.1 x y)

/-- Columns `col`, `col + 1`, ... of one row, `fuel` of them, cut at the right edge (R193). -/
def drawRow (b : Byte) (ox ty : Nat) : (fuel col : Nat) → Display × Bool → Display × Bool
  | 0, _, acc => acc
  | fuel + 1, col, acc =>
    if ox + col ≥ 64 then acc
    else drawRow b ox ty fuel (col + 1) (if spriteBit b col then plot acc (ox + col) ty else acc)

/-- Rows `row`, `row + 1`, ... of the sprite at I, `fuel` of them, cut at the bottom edge (R193). -/
def drawRows (s : State) (ox oy : Nat) : (fuel row : Nat) → Display × Bool → Display × Bool
  | 0, _, acc => acc
  | fuel + 1, row, acc =>
    if oy + row ≥ 32 then acc
    else drawRows s ox oy fuel (row + 1) (drawRow (memRead s (ea s row)) ox (oy + row) 8 0 acc)

/-- The buffer after a draw of `n` rows at the origin of VX and VY, and whether there was a collision (R193, R195). -/
def drawn (s : State) (vx vy : Byte) (n : Nat) : Display × Bool :=
  drawRows s (vx.toNat % 64) (vy.toNat % 32) n 0 (s.fb, false)

/-- 00E0 (R190). -/
def execCls (s : State) : Answer := .next (setDisplay blankDisplay s)

/-- DXYN (R193). The origin is sampled before VF is written (R198); VF's clear and its set on a collision are one write of
the collision flag; the buffer is written and DIRTY set whatever was drawn (R197). -/
def execDrw (x y : Reg) (n : Fin 16) (s : State) : Answer :=
  .next (writeV VF (flagByte (drawn s (readV s x) (readV s y) n.val).2)
    (setDisplay (drawn s (readV s x) (readV s y) n.val).1 s))

end Sys2Proof.Machine
end

