-- ==== Sys2Proof/Machine/Index.lean ====
section
/-! DEFINITION. The address register and the memory-indexed instructions (spec/42_index_memory.md). None of them but
ANNN, FX1E and FX29 writes I (R178). -/

namespace Sys2Proof.Machine

/-- `MEM[I + k] <- V[k]` for k = 0 .. n - 1, ascending, values and I taken from `s` (R176). -/
def storeRegs (s : State) : Nat → State
  | 0 => s
  | n + 1 => memWrite (ea s n) (readV s (regOf n)) (storeRegs s n)

/-- `V[k] <- MEM[I + k]` for k = 0 .. n - 1, ascending, memory and I taken from `s` (R177). -/
def loadRegs (s : State) : Nat → State
  | 0 => s
  | n + 1 => writeV (regOf n) (memRead s (ea s n)) (loadRegs s n)

/-- `MEM[I + k] <- digit k of vx` for k = 0 .. n - 1, ascending (R173). -/
def storeDigits (s : State) (vx : Byte) : Nat → State
  | 0 => s
  | n + 1 => memWrite (ea s n) (bcdDigit vx n) (storeDigits s vx n)

/-- ANNN (R170). -/
def execLdI (nnn : Addr12) (s : State) : Answer := .next (setI (zextAddr nnn) s)

/-- FX1E (R171). -/
def execAddI (x : Reg) (s : State) : Answer := .next (setI (addIndex s.i (readV s x)) s)

/-- FX29 (R172). -/
def execLdF (x : Reg) (s : State) : Answer := .next (setI (glyphAddr (readV s x)) s)

/-- FX33 (R173). -/
def execLdB (x : Reg) (s : State) : Answer := .next (storeDigits s (readV s x) 3)

/-- FX55 (R176): X is a count too, X + 1 registers are stored. -/
def execLdMemVx (x : Reg) (s : State) : Answer := .next (storeRegs s (x.val + 1))

/-- FX65 (R177): X is a count too, X + 1 registers are loaded. -/
def execLdVxMem (x : Reg) (s : State) : Answer := .next (loadRegs s (x.val + 1))

end Sys2Proof.Machine
end

