-- ==== Sys2Proof/Machine/Timers.lean ====
section
/-! DEFINITION. The timer moves, the key skips and the key wait (spec/44_timers_keys.md). -/

namespace Sys2Proof.Machine

/-- FX07 (R210). -/
def execLdVxDt (x : Reg) (s : State) : Answer := .next (writeV x s.dt s)

/-- FX15 (R211). -/
def execLdDtVx (x : Reg) (s : State) : Answer := .next (setDt (readV s x) s)

/-- FX18 (R212). -/
def execLdStVx (x : Reg) (s : State) : Answer := .next (setSt (readV s x) s)

/-- EX9E (R214). -/
def execSkp (x : Reg) (s : State) : Answer := .next (skipIf (pressed s (readV s x)) s)

/-- EXA1 (R215). -/
def execSknp (x : Reg) (s : State) : Answer := .next (skipIf (!pressed s (readV s x)) s)

/-- FX0A (R217): with no key pressed, back to A, so that the next cycle fetches this instruction again. -/
def execLdVxK (x : Reg) (s : State) : Answer :=
  .next (if s.keys = 0 then setPc (s.pc - 2) s else writeV x (lowestKey s.keys) s)

end Sys2Proof.Machine
end

