-- ==== Sys2Proof/Machine/Cycle.lean ====
section
/-! DEFINITION. The instruction cycle (spec/20_memory.md R61, R68, R70): fetch, sample, decode, execute. -/

namespace Sys2Proof.Machine

/-- The opcode at PC: two byte reads, each masked, high byte first (R61, R68). -/
def fetchWord (s : State) : Opcode := wordOfBytes (memRead s s.pc) (memRead s (s.pc + 1))

/-- The state the execute phase starts in: PC past the instruction, this cycle's samples latched (R70), and the run begun
(R276: a Load is no longer legal). -/
def afterFetch (keys : BitVec 16) (rnd : Byte) (s : State) : State :=
  { s with pc := s.pc + 2, keys := keys, rnd := rnd, running := true }

/-- One Cycle event (R70). A halted core does nothing; an unrecognised word does nothing more than the fetch (R100). -/
def runCycle (keys : BitVec 16) (rnd : Byte) (s : State) : Answer :=
  if halted s then .next s
  else match decodeWord (fetchWord s) with
    | .ok i => exec i (afterFetch keys rnd s)
    | .error _ => .next (afterFetch keys rnd s)

/-- The Cycle of a host that has scripted no event: its key sample and random byte are free values (log 2), and the counter
of free values advances. A halted core samples nothing (spec/60_exceptions.md R234). -/
def freeCycle (s : State) : Answer :=
  if halted s then .next s
  else runCycle (Config.freeKeys s.draws) (Config.freeByte s.draws) { s with draws := s.draws + 1 }

/-- Place a word where the next fetch reads it, high byte at PC (R61, R68). -/
def placeWord (w : Opcode) (s : State) : State :=
  memWrite (s.pc + 1) (loByte w) (memWrite s.pc (hiByte w) s)

end Sys2Proof.Machine
end

