-- ==== Sys2Proof/Machine/Events.lean ====
section
/-! DEFINITION. The host's events (spec/10_state.md R44), the program load (spec/70_reset_and_hazards.md R276) and the
order of events on one clock edge (spec/10_state.md R45). -/

namespace Sys2Proof.Machine

/-- Tick: both timers down by one, clamped at 0, each on its own value, whatever FAULT is (spec/44_timers_keys.md R218). -/
def applyTick (s : State) : State := setSt (countDown s.st) (setDt (countDown s.dt) s)

/-- RenderAck: DIRTY <- 0 (spec/60_exceptions.md R249). -/
def applyRenderAck (s : State) : State := setDirty false s

/-- Reset (spec/70_reset_and_hazards.md R270): every piece of state to its reset value. The core's parameters are the same
core's; the host's undelivered events and the counter of free values are the model's own and stay (log 20). -/
def applyReset (s : State) : State :=
  { State.resetWith s.config with inbox := s.inbox, draws := s.draws }

/-- Load(a, b): MEM[a] <- b between Reset and the first Cycle; a Load during a run has no meaning in the spec
(spec/70_reset_and_hazards.md R276, spec/20_memory.md R76) and stops the run (log 5). -/
def applyLoad (a : Addr12) (b : Byte) (s : State) : Answer :=
  if s.running then .fault .loadDuringRun else .next (memWrite (zextAddr a) b s)

/-- One host event (R44). -/
def applyEvent (e : HostEvent) (s : State) : Answer :=
  match e with
  | .reset => .next (applyReset s)
  | .load a b => applyLoad a b s
  | .cycle keys rnd => runCycle keys rnd s
  | .tick => .next (applyTick s)
  | .renderAck => .next (applyRenderAck s)

/-- The loader's events for the rest `rom` of a program whose next byte goes to address `a` (R276). -/
def loadEvents : List Byte → Addr12 → List HostEvent
  | [], _ => []
  | b :: rom, a => .load a b :: loadEvents rom (a + 1)

/-- The Load sequence of a ROM, from 0x200 upward (R276). -/
def romEvents (rom : List Byte) : List HostEvent := loadEvents rom 0x200

/-- What a port-level host may present on one clock edge (spec/10_state.md R45). -/
structure ClockEdge where
  /-- `rst`. -/
  rst : Bool
  /-- `ld_we` with `ld_addr` and `ld_data`. -/
  load : Option (Addr12 × Byte)
  /-- `render_ack`. -/
  renderAck : Bool
  /-- `cycle_en` with `keys` and `rnd`. -/
  cycle : Option (BitVec 16 × Byte)
  /-- `tick_en`. -/
  tick : Bool
  deriving DecidableEq, Repr

/-- The events of one edge, in the order R45 fixes: reset alone; else Load, RenderAck, Cycle, Tick. -/
def ClockEdge.events (c : ClockEdge) : List HostEvent :=
  if c.rst then [.reset]
  else
    (c.load.map (fun p => HostEvent.load p.1 p.2)).toList ++
    (if c.renderAck then [.renderAck] else []) ++
    (c.cycle.map (fun p => HostEvent.cycle p.1 p.2)).toList ++
    (if c.tick then [.tick] else [])

end Sys2Proof.Machine
end

