-- ==== Sys2Proof/Machine/Step.lean ====
section
/-! DEFINITION. One step: the host's next event. With none scripted it is a Cycle (log 3). -/

namespace Sys2Proof.Machine

/-- One step of the machine: the oldest event of the inbox, or a Cycle with free samples when the inbox is empty. -/
def step (s : State) : Host.Outcome State Fault Refusal :=
  match s.inbox with
  | [] => freeCycle s
  | e :: rest => applyEvent e { s with inbox := rest }

/-- `s` with an instruction placed where `step` fetches its next one. The very next step must be a Cycle that runs, so
the host's scripted events are taken away and a halted core is taken as running; nothing else changes (log 4). -/
def State.withFetchWord (s : State) (nbits w : Nat) : State :=
  { placeWord (BitVec.ofNat 16 (w % 2 ^ nbits)) s with inbox := [], fault := .none }

end Sys2Proof.Machine
end

