-- ==== Sys2Proof/Machine/Ports.lean ====
section
/-! DEFINITION. What the host can read between events, with no side effect (spec/10_state.md R33, R36, R44, R45), and
the two optional diagnostics (spec/60_exceptions.md R240), which are no state. -/

namespace Sys2Proof.Machine

/-- `fb_rdata` at `fb_addr = y × 64 + x` (spec/10_state.md R45). -/
def fbRead (s : State) (a : BitVec 11) : Bool := pixel s.fb (a.toNat % 64) (a.toNat / 64)

/-- `fault[1:0]` (spec/10_state.md R39). -/
def faultBits (s : State) : BitVec 2 :=
  match s.fault with
  | .none => 0
  | .stackOverflow => 1
  | .stackUnderflow => 2

/-- The audio collaborator sounds a tone while ST is non-zero (spec/10_state.md R36). -/
def tone (s : State) : Bool := s.st != 0

/-- The addresses an instruction presents to memory beyond its fetch, before masking, in order (spec/20_memory.md R64);
`s` is the state its execute phase starts in. A clipped sprite row is not counted (log 21). -/
def dataAddrs (i : Instr) (s : State) : List Addr :=
  match i with
  | .drw _ y n => (List.range (min n.val (32 - (readV s y).toNat % 32))).map (ea s)
  | .ldB _ => (List.range 3).map (ea s)
  | .ldMemVx x | .ldVxMem x => (List.range (x.val + 1)).map (ea s)
  | .cls | .ret | .jp _ | .call _ | .seByte _ _ | .sneByte _ _ | .seReg _ _ | .ldByte _ _ | .addByte _ _ | .ldReg _ _
  | .orReg _ _ | .andReg _ _ | .xorReg _ _ | .addReg _ _ | .subReg _ _ | .shr _ _ | .subn _ _ | .shl _ _ | .sneReg _ _
  | .ldI _ | .jpV0 _ | .rnd _ _ | .skp _ | .sknp _ | .ldVxDt _ | .ldVxK _ | .ldDtVx _ | .ldStVx _ | .addI _
  | .ldF _ => []

/-- Every address the Cycle from `s` presents, the two of the fetch first (spec/20_memory.md R64, R68). None of them
depends on the cycle's samples. -/
def cycleAddrs (s : State) : List Addr :=
  if halted s then []
  else s.pc :: (s.pc + 1) :: (match decodeWord (fetchWord s) with
    | .ok i => dataAddrs i s
    | .error _ => [])

/-- `diag_oob` of the Cycle from `s`: some address presented was above 0x0FFF (spec/20_memory.md R71). -/
def diagOob (s : State) : Bool := (cycleAddrs s).any (fun a => a.toNat > 0x0FFF)

/-- `diag_unk` of the Cycle from `s`: its opcode is unrecognised (spec/30_encoding.md R100). -/
def diagUnk (s : State) : Bool :=
  !halted s && (match decodeWord (fetchWord s) with
    | .ok _ => false
    | .error _ => true)

end Sys2Proof.Machine
end

