-- ==== Sys2Proof/WellFormed.lean ====
section
/-! DEFINITION. Well-formedness. An instruction's operands carry theirs in their types: R93 makes every value of every
field legal, and the types of Syntax hold exactly those values, so no ill-formed instruction can be written. What can be
ill-formed is a core's parameters (R6, R28, R31) and a program (R276). -/

namespace Sys2Proof

/-- Every operand value the types admit is one the encoding admits (spec/30_encoding.md R93: "all 16 values legal"), so
this check accepts every instruction; it is stated constructor by constructor so that a new one cannot slip past. -/
def Instr.wf : Instr → Bool
  | .cls | .ret => true
  | .jp nnn | .call nnn | .ldI nnn | .jpV0 nnn => nnn.toNat ≤ 0xFFF
  | .seByte x nn | .sneByte x nn | .ldByte x nn | .addByte x nn | .rnd x nn => x.val ≤ 15 && nn.toNat ≤ 0xFF
  | .seReg x y | .ldReg x y | .orReg x y | .andReg x y | .xorReg x y | .addReg x y | .subReg x y | .shr x y
  | .subn x y | .shl x y | .sneReg x y => x.val ≤ 15 && y.val ≤ 15
  | .drw x y n => x.val ≤ 15 && y.val ≤ 15 && n.val ≤ 15
  | .skp x | .sknp x | .ldVxDt x | .ldVxK x | .ldDtVx x | .ldStVx x | .addI x | .ldF x | .ldB x | .ldMemVx x
  | .ldVxMem x => x.val ≤ 15

/-- STACK_DEPTH is in its legal range, 12 to 16 (spec/10_state.md R28). -/
def Config.depthLegal (c : Config) : Bool := 12 ≤ c.stackDepth && c.stackDepth ≤ 16

/-- FONT is 80 bytes, 16 glyphs of 5 (spec/10_state.md R31). -/
def Config.fontLegal (c : Config) : Bool := c.font.length == 80

/-- A core the spec allows (spec/00_scope.md R6). -/
def Config.wf (c : Config) : Bool := c.depthLegal && c.fontLegal

/-- A program the loader accepts: at most 4096 - 0x200 = 3584 bytes (spec/70_reset_and_hazards.md R276). -/
def romFits (rom : List Byte) : Bool := rom.length ≤ 3584

end Sys2Proof
end

