-- ==== Sys2Proof/Safety.lean ====
section
/-! DEFINITION. The terms claims use: the invariant, safe states, what "changes only this" means, and the states the spec
names by what they do (parked, waiting for a key). -/

namespace Sys2Proof.Machine

/-- The invariant of the machine: a legal core (R28, R31), canonical memory, the stack's STACK_DEPTH slots, SP within
its range (spec/10_state.md R28, R29), and FAULT set only where a fatal condition leaves it: full stack for an overflow,
empty stack for an underflow, and only in a run (spec/60_exceptions.md R231 to R233). -/
structure State.Inv (s : State) : Prop where
  legalCore : s.config.wf = true
  memory : s.memWf = true
  slots : s.stack.length = s.config.stackDepth
  depth : s.sp ≤ s.config.stackDepth
  overflowAtCapacity : s.fault = .stackOverflow → s.sp = s.config.stackDepth
  underflowAtZero : s.fault = .stackUnderflow → s.sp = 0
  faultOnlyInRun : s.fault ≠ .none → s.running = true

/-- A safe state: no fatal condition has occurred (spec/60_exceptions.md R234: "FAULT = 0 throughout"). -/
def State.Safe (s : State) : Prop := s.fault = .none

/-- Every byte of memory reads the same in both states. -/
def SameMemory (s t : State) : Prop := ∀ a : Addr, memRead t a = memRead s a

/-- Every byte of memory reads the same but those at the addresses `EA(0)`, ..., `EA(n - 1)` of `s`, each masked. -/
def SameMemoryBut (n : Nat) (s t : State) : Prop :=
  ∀ a : Addr, (∀ k, k < n → effective a ≠ effective (ea s k)) → memRead t a = memRead s a

/-- Every general register but those that satisfy `written` is the same. -/
def SameRegsBut (written : Reg → Prop) (s t : State) : Prop := ∀ r : Reg, ¬written r → readV t r = readV s r

/-- `t` differs from `s` at most in the general registers: I, PC, the stack, memory, the display, the timers, DIRTY,
FAULT and the rest are equal. -/
def OnlyRegs (s t : State) : Prop := t = { s with v := t.v } ∧ SameMemory s t

/-- `t` differs from `s` at most in PC. -/
def OnlyPc (s t : State) : Prop := t = { s with pc := t.pc } ∧ SameMemory s t

/-- `t` differs from `s` at most in I. -/
def OnlyI (s t : State) : Prop := t = { s with i := t.i } ∧ SameMemory s t

/-- The two states agree on everything the spec calls state (spec/10_state.md section 1) and on the core's parameters;
the samples of a cycle and the model's own fields may differ. -/
def SameArch (s t : State) : Prop :=
  t.v = s.v ∧ t.i = s.i ∧ t.pc = s.pc ∧ t.sp = s.sp ∧ t.stack = s.stack ∧ t.mem = s.mem ∧ t.fb = s.fb ∧ t.dt = s.dt ∧
  t.st = s.st ∧ t.dirty = s.dirty ∧ t.fault = s.fault ∧ t.config = s.config

/-- Two 16-bit values with the same low 12 bits. -/
def SameLow12 (a b : Addr) : Prop := effective a = effective b

/-- The two states agree on everything a program can observe: all but the top four bits of I, of PC and of the call-stack
slots (spec/10_state.md R24, R27). -/
structure LooksSame (s t : State) : Prop where
  v : t.v = s.v
  i : SameLow12 s.i t.i
  pc : SameLow12 s.pc t.pc
  sp : t.sp = s.sp
  slots : t.stack.length = s.stack.length
  stack : ∀ k, SameLow12 (s.stack.getD k 0) (t.stack.getD k 0)
  mem : t.mem = s.mem
  fb : t.fb = s.fb
  dt : t.dt = s.dt
  st : t.st = s.st
  dirty : t.dirty = s.dirty
  fault : t.fault = s.fault
  keys : t.keys = s.keys
  rnd : t.rnd = s.rnd
  config : t.config = s.config
  inbox : t.inbox = s.inbox
  draws : t.draws = s.draws
  running : t.running = s.running

/-- The reset values of spec/10_state.md R50 on the core `s` is a state of: memory is that core's FONT at 0x000..0x04F and
0x00 elsewhere, and the stack has that core's STACK_DEPTH slots. -/
structure ResetValues (s : State) : Prop where
  v : ∀ r, readV s r = 0x00
  i : s.i = 0x0000
  pc : s.pc = 0x0200
  sp : s.sp = 0
  slots : s.stack = List.replicate s.config.stackDepth 0x0000
  font : ∀ a : Addr, effective a < 80 → memRead s a = s.config.font.getD (effective a) 0x00
  zero : ∀ a : Addr, 80 ≤ effective a → memRead s a = 0x00
  fb : ∀ x y, x < 64 → y < 32 → pixel s.fb x y = false
  dt : s.dt = 0x00
  st : s.st = 0x00
  dirty : s.dirty = false
  fault : s.fault = .none

/-- The place of an event in the order of one clock edge (spec/10_state.md R45): Load, RenderAck, Cycle, Tick. A Reset is
alone on its edge. -/
def edgePlace : HostEvent → Nat
  | .reset => 0
  | .load _ _ => 1
  | .renderAck => 2
  | .cycle _ _ => 3
  | .tick => 4

/-- Parked (spec/70_reset_and_hazards.md R278, a convention): FAULT = 0 and the word at PC is a jump to PC. -/
def Parked (s : State) : Prop :=
  s.fault = .none ∧ s.pc.toNat < 4096 ∧ fetchWord s = encodeWord (.jp (s.pc.setWidth 12))

/-- The core waits for a key (spec/10_state.md R43): FAULT = 0, the word at PC is FX0A, and the key sample is 0. -/
def WaitingForKey (keys : BitVec 16) (s : State) : Prop :=
  s.fault = .none ∧ (∃ x, decodeWord (fetchWord s) = .ok (.ldVxK x)) ∧ keys = 0

/-- The condition of each of the six skips (spec/40_control_flow.md R124 to R128, spec/44_timers_keys.md R214, R215); none for
an instruction that is no skip. -/
def skipCondition (i : Instr) (s : State) : Option Bool :=
  match i with
  | .seByte x nn => some (decide (readV s x = nn))
  | .sneByte x nn => some (decide (readV s x ≠ nn))
  | .seReg x y => some (decide (readV s x = readV s y))
  | .sneReg x y => some (decide (readV s x ≠ readV s y))
  | .skp x => some (pressed s (readV s x))
  | .sknp x => some (!pressed s (readV s x))
  | .cls | .ret | .jp _ | .call _ | .ldByte _ _ | .addByte _ _ | .ldReg _ _ | .orReg _ _ | .andReg _ _ | .xorReg _ _
  | .addReg _ _ | .subReg _ _ | .shr _ _ | .subn _ _ | .shl _ _ | .ldI _ | .jpV0 _ | .rnd _ _ | .drw _ _ _ | .ldVxDt _
  | .ldVxK _ | .ldDtVx _ | .ldStVx _ | .addI _ | .ldF _ | .ldB _ | .ldMemVx _ | .ldVxMem _ => none

/-- The sprite of a DXYN has a lit bit at display cell (x, y): the cell is inside the clip window and the bit of its row
and column is 1 (spec/43_display.md R194, R195, R196). -/
def spriteCovers (s : State) (vx vy : Byte) (n : Nat) (x y : Nat) : Bool :=
  let ox := vx.toNat % 64
  let oy := vy.toNat % 32
  decide (x < 64) && decide (y < 32) && decide (oy ≤ y) && decide (y - oy < n) && decide (ox ≤ x) && decide (x - ox < 8) &&
    (memRead s (ea s (y - oy))).getLsbD (7 - (x - ox))

end Sys2Proof.Machine
end

