-- ==== Sys2Proof/Certificates/Slice0/Obligations.lean ====
section
/-! DEFINITION. The statements for the provers. In a statement about an instruction, `s` is the state its execute phase
starts in, so `s.pc` is the post-fetch PC, A + 2 (spec/20_memory.md R70). `OnlyRegs`, `OnlyPc`, `OnlyI`, `SameRegsBut`,
`SameMemory`, `SameMemoryBut` (Safety.lean) are the frames. `s.memWf` is the canonical form of memory, which every step
keeps (`Obligations.StepKeepsTheInvariant`). -/

open Sys2Proof Sys2Proof.Machine

/-! ### Encoding -/

/-- R92, R96, words written out digit by digit from the patterns of R96. -/
def Obligations.SampleWordsDecode : Prop :=
  decodeWord 0x00E0 = .ok .cls ∧ decodeWord 0x2ABC = .ok (.call 0xABC) ∧ decodeWord 0x3A12 = .ok (.seByte 0xA 0x12) ∧
  decodeWord 0x8A7E = .ok (.shl 0xA 0x7) ∧ decodeWord 0xDA7C = .ok (.drw 0xA 0x7 0xC) ∧
  decodeWord 0xE5A1 = .ok (.sknp 0x5) ∧ decodeWord 0xF355 = .ok (.ldMemVx 0x3) ∧ decodeWord 0xF365 = .ok (.ldVxMem 0x3)

/-- Every instruction, with every operand at every value, decodes back from its two bytes in memory, whatever follows. -/
def Obligations.DecodeUndoesEncode : Prop :=
  ∀ (i : Instr) (rest : List Byte), i.wf = true ∧ decode (encode i ++ rest) = .ok (i, rest)

/-- Every word that decodes is the encoding of what it decodes to: no bit is dropped, no instruction has two words. -/
def Obligations.EncodeUndoesDecode : Prop :=
  ∀ (w : Opcode) (i : Instr), decodeWord w = .ok i → encodeWord i = w

/-- R96: "An opcode `w` is the instruction of the first (and only) row with `w & mask == match`; the rows are pairwise
disjoint. 34 rows." -/
def Obligations.DecoderFollowsTheOpcodeMap : Prop :=
  opcodeMap.length = 34 ∧
  (∀ (w : Opcode) (r r' : Row), r ∈ opcodeMap → r' ∈ opcodeMap → r.covers w = true → r'.covers w = true → r = r') ∧
  (∀ (w : Opcode) (i : Instr), decodeWord w = .ok i → rowOf i ∈ opcodeMap ∧ (rowOf i).covers w = true) ∧
  (∀ (w : Opcode) (r : Row), r ∈ opcodeMap → r.covers w = true → ∃ i, decodeWord w = .ok i ∧ rowOf i = r)

/-- 30_encoding.md section 4: the unrecognised words are exactly those of its table, and one completes the cycle with
PC = A + 2 and no other state change; FAULT stays 0. Which words they are (5XYN and 9XYN with N ≠ 0, every 0NNN but two)
is decision D5 (log 12). -/
def Obligations.UnrecognisedWordsAreNoOps : Prop :=
  (∀ w : Opcode, (∃ e, decodeWord w = .error e) ↔
    (w.toNat < 0x1000 ∧ w.toNat ≠ 0x00E0 ∧ w.toNat ≠ 0x00EE) ∨
    (w.toNat / 0x1000 = 0x5 ∧ w.toNat % 16 ≠ 0) ∨
    (w.toNat / 0x1000 = 0x8 ∧ w.toNat % 16 ∈ [0x8, 0x9, 0xA, 0xB, 0xC, 0xD, 0xF]) ∨
    (w.toNat / 0x1000 = 0x9 ∧ w.toNat % 16 ≠ 0) ∨
    (w.toNat / 0x1000 = 0xE ∧ w.toNat % 256 ∉ [0x9E, 0xA1]) ∨
    (w.toNat / 0x1000 = 0xF ∧ w.toNat % 256 ∉ [0x07, 0x0A, 0x15, 0x18, 0x1E, 0x29, 0x33, 0x55, 0x65])) ∧
  (∀ (keys : BitVec 16) (rnd : Byte) (s : State), s.fault = .none → (∃ e, decodeWord (fetchWord s) = .error e) →
    ∃ t, runCycle keys rnd s = .next t ∧ SameArch { s with pc := s.pc + 2 } t)

/-! ### The cycle and the step -/

/-- 20_memory.md section 4, as a scripted Cycle event: a halted core does nothing (decision D4); otherwise the opcode is
the byte at PC and the byte at PC + 1, high first, PC becomes PC + 2 before execute, the samples are this cycle's, and the
instruction it decodes to is executed, or nothing further happens. -/
def Obligations.CycleEventFetchesThenExecutes : Prop :=
  ∀ (s : State) (keys : BitVec 16) (rnd : Byte) (rest : List HostEvent), s.inbox = .cycle keys rnd :: rest →
    (s.fault ≠ .none → step s = .next { s with inbox := rest }) ∧
    (s.fault = .none → ∀ i, decodeWord (memRead s s.pc ++ memRead s (s.pc + 1)) = .ok i →
      step s = exec i { s with pc := s.pc + 2, keys := keys, rnd := rnd, running := true, inbox := rest }) ∧
    (s.fault = .none → ∀ e, decodeWord (memRead s s.pc ++ memRead s (s.pc + 1)) = .error e →
      step s = .next { s with pc := s.pc + 2, keys := keys, rnd := rnd, running := true, inbox := rest })

/-- The same with no host event scripted (the model's own choice, logs 2 and 3: the step is then a Cycle whose two samples
are free values, constants without a body, so the statement holds whatever they are). -/
def Obligations.StepRunsTheDecodedInstruction : Prop :=
  ∀ (s : State), s.inbox = [] →
    (s.fault ≠ .none → step s = .next s) ∧
    (s.fault = .none → ∀ i, decodeWord (memRead s s.pc ++ memRead s (s.pc + 1)) = .ok i →
      step s = exec i { s with
        pc := s.pc + 2
        keys := Config.freeKeys s.draws
        rnd := Config.freeByte s.draws
        running := true
        draws := s.draws + 1 }) ∧
    (s.fault = .none → ∀ e, decodeWord (memRead s s.pc ++ memRead s (s.pc + 1)) = .error e →
      step s = .next { s with
        pc := s.pc + 2
        keys := Config.freeKeys s.draws
        rnd := Config.freeByte s.draws
        running := true
        draws := s.draws + 1 })

/-- A word stored where the next fetch reads it is the word the next step runs, whatever events were scripted and whatever
FAULT was (the model's loader view, log 4). -/
def Obligations.PlacedWordRunsNext : Prop :=
  ∀ (s : State) (i : Instr), s.memWf = true →
    ∃ s', step (s.withFetchWord 16 (encodeWord i).toNat) = exec i s' ∧ s'.pc = s.pc + 2 ∧
      s'.v = s.v ∧ s'.i = s.i ∧ s'.sp = s.sp ∧ s'.stack = s.stack ∧ s'.fb = s.fb ∧ s'.dt = s.dt ∧ s'.st = s.st ∧
      s'.dirty = s.dirty ∧ s'.fault = .none ∧ s'.config = s.config ∧
      (∀ a : Addr, effective a ≠ effective s.pc → effective a ≠ effective (s.pc + 1) → memRead s' a = memRead s a)

/-! ### Control transfer -/

/-- R121. -/
def Obligations.JumpSetsPc : Prop :=
  ∀ (s : State) (nnn : Addr12), ∃ t, exec (.jp nnn) s = .next t ∧ t.pc.toNat = nnn.toNat ∧ OnlyPc s t

/-- R123: the sum does not wrap in 16 bits, and the next fetch is at its low 12 bits. -/
def Obligations.IndexedJumpAddsV0 : Prop :=
  ∀ (s : State) (nnn : Addr12), ∃ t, exec (.jpV0 nnn) s = .next t ∧
    t.pc.toNat = nnn.toNat + (readV s 0).toNat ∧ effective t.pc = (nnn.toNat + (readV s 0).toNat) % 4096 ∧ OnlyPc s t

/-- R124, R125, R126, R127: each skip adds 2 to the post-fetch PC exactly when its condition holds. -/
def Obligations.RegisterSkips : Prop :=
  ∀ (s : State) (x y : Reg) (nn : Byte),
    (∃ t, exec (.seByte x nn) s = .next t ∧ OnlyPc s t ∧
      t.pc.toNat = (if readV s x = nn then (s.pc.toNat + 2) % 65536 else s.pc.toNat)) ∧
    (∃ t, exec (.sneByte x nn) s = .next t ∧ OnlyPc s t ∧
      t.pc.toNat = (if readV s x ≠ nn then (s.pc.toNat + 2) % 65536 else s.pc.toNat)) ∧
    (∃ t, exec (.seReg x y) s = .next t ∧ OnlyPc s t ∧
      t.pc.toNat = (if readV s x = readV s y then (s.pc.toNat + 2) % 65536 else s.pc.toNat)) ∧
    (∃ t, exec (.sneReg x y) s = .next t ∧ OnlyPc s t ∧
      t.pc.toNat = (if readV s x ≠ readV s y then (s.pc.toNat + 2) % 65536 else s.pc.toNat))

/-- R128: a cycle that runs one of the six skips ends with PC = A + 4 when its condition holds and A + 2 when not, all
modulo 65536, and changes nothing else; the word at A + 2 is not examined: any other word there gives the same PC. -/
def Obligations.SkipPassesOverOneWord : Prop :=
  ∀ (s : State) (keys : BitVec 16) (rnd : Byte) (i : Instr) (c : Bool) (w : Opcode),
    s.fault = .none → decodeWord (fetchWord s) = .ok i → skipCondition i (afterFetch keys rnd s) = some c →
    ∃ t, runCycle keys rnd s = .next t ∧ SameArch { s with pc := t.pc } t ∧
      t.pc.toNat = (if c then (s.pc.toNat + 4) % 65536 else (s.pc.toNat + 2) % 65536) ∧
      ∃ t', exec i (placeWord w (afterFetch keys rnd s)) = .next t' ∧ t'.pc = t.pc

/-- 2NNN below capacity: the post-fetch PC is pushed, SP counts it, PC is the target; no other slot, register or byte
changes (40_control_flow.md; STACK_DEPTH is the core's parameter, decision D1). -/
def Obligations.CallPushesTheReturnAddress : Prop :=
  ∀ (s : State) (nnn : Addr12), s.stack.length = s.config.stackDepth → s.sp < s.config.stackDepth →
    ∃ t, exec (.call nnn) s = .next t ∧ t.pc.toNat = nnn.toNat ∧ t.sp = s.sp + 1 ∧
      t.stack.getD s.sp 0 = s.pc ∧ (∀ k, k ≠ s.sp → t.stack.getD k 0 = s.stack.getD k 0) ∧
      t.stack.length = s.stack.length ∧
      t = { s with pc := t.pc, sp := t.sp, stack := t.stack } ∧ SameMemory s t

/-- 00EE with a call active: SP counts down and PC is the popped slot, which keeps its value (40_control_flow.md). -/
def Obligations.ReturnPopsTheReturnAddress : Prop :=
  ∀ (s : State), s.stack.length = s.config.stackDepth → 0 < s.sp → s.sp ≤ s.config.stackDepth →
    ∃ t, exec .ret s = .next t ∧ t.sp + 1 = s.sp ∧ s.stack[t.sp]? = some t.pc ∧
      t = { s with pc := t.pc, sp := t.sp } ∧ SameMemory s t

/-- "2NNN followed immediately by 00EE restores PC to exactly the instruction after the original call site", and all but
the one slot at SP, which goes stale, with it, in any state with room for the call (decision D3, log 10, for the slot). -/
def Obligations.ReturnUndoesCall : Prop :=
  ∀ (s : State) (nnn : Addr12), s.stack.length = s.config.stackDepth → s.sp < s.config.stackDepth →
    ∃ t u, exec (.call nnn) s = .next t ∧ exec .ret t = .next u ∧ u = { s with stack := u.stack } ∧
      u.stack.length = s.stack.length ∧ (∀ k, k ≠ s.sp → u.stack.getD k 0 = s.stack.getD k 0)

/-! ### The fatal conditions -/

/-- A call at capacity and a return at depth 0 TRAP: FAULT takes its code and nothing else of the state changes, PC keeping
its post-fetch value (60_exceptions.md section 3; FAULT, its codes and the PC kept are decision D4). -/
def Obligations.FatalConditionsWriteFaultOnly : Prop :=
  ∀ (s : State) (nnn : Addr12),
    (s.sp = s.config.stackDepth → exec (.call nnn) s = .next { s with fault := .stackOverflow }) ∧
    (s.sp = 0 → exec .ret s = .next { s with fault := .stackUnderflow }) ∧
    faultBits { s with fault := .none } = 0 ∧ faultBits { s with fault := .stackOverflow } = 1 ∧
    faultBits { s with fault := .stackUnderflow } = 2

/-- 60_exceptions.md section 2 (FAULT and its codes are decision D4): StackOverflow, code 1, is raised by 2NNN and only by
it, when SP = STACK_DEPTH at the start of its execute phase; StackUnderflow, code 2, by 00EE and only by it, when SP = 0. -/
def Obligations.OnlyCallOverflowsOnlyReturnUnderflows : Prop :=
  ∀ (s t : State) (i : Instr), s.fault = .none → exec i s = .next t →
    (faultBits t = 1 ↔ (∃ nnn, i = .call nnn) ∧ s.sp = s.config.stackDepth) ∧
    (faultBits t = 2 ↔ i = .ret ∧ s.sp = 0)

/-- The halted state (60_exceptions.md section 3, decision D4): while FAULT ≠ 0 no event but Reset changes it, PC, a register
or the stack, a Cycle changes nothing at all, and Reset clears it. That a step with no event scripted is a Cycle, so that on
a halted core it changes nothing either, is the model's choice (log 3). -/
def Obligations.FaultIsStickyUntilReset : Prop :=
  ∀ (s t : State), s.fault ≠ .none → step s = .next t →
    (s.inbox.head? ≠ some .reset → t.fault = s.fault ∧ t.pc = s.pc ∧ t.v = s.v ∧ t.sp = s.sp ∧ t.stack = s.stack) ∧
    (∀ k b rest, s.inbox = .cycle k b :: rest → t = { s with inbox := rest }) ∧ (s.inbox = [] → t = s) ∧
    (∀ rest, s.inbox = .reset :: rest → t.fault = .none)

/-! ### Register loads and the ALU -/

/-- R140. -/
def Obligations.LoadImmediateWritesVX : Prop :=
  ∀ (s : State) (x : Reg) (nn : Byte), ∃ t, exec (.ldByte x nn) s = .next t ∧ readV t x = nn ∧
    SameRegsBut (· = x) s t ∧ OnlyRegs s t

/-- R141: the sum modulo 256; no flag (when X is 0xF, VF takes the sum). -/
def Obligations.AddImmediateWrapsWithoutFlag : Prop :=
  ∀ (s : State) (x : Reg) (nn : Byte), ∃ t, exec (.addByte x nn) s = .next t ∧
    (readV t x).toNat = ((readV s x).toNat + nn.toNat) % 256 ∧ SameRegsBut (· = x) s t ∧ OnlyRegs s t

/-- R144. -/
def Obligations.CopyWritesVX : Prop :=
  ∀ (s : State) (x y : Reg), ∃ t, exec (.ldReg x y) s = .next t ∧ readV t x = readV s y ∧
    SameRegsBut (· = x) s t ∧ OnlyRegs s t

/-- R145, R146, R147: bit by bit; VF unchanged unless it is VX. -/
def Obligations.LogicalOpsActOnEachBit : Prop :=
  ∀ (s : State) (x y : Reg),
    (∃ t, exec (.orReg x y) s = .next t ∧ SameRegsBut (· = x) s t ∧ OnlyRegs s t ∧
      ∀ k, (readV t x).getLsbD k = ((readV s x).getLsbD k || (readV s y).getLsbD k)) ∧
    (∃ t, exec (.andReg x y) s = .next t ∧ SameRegsBut (· = x) s t ∧ OnlyRegs s t ∧
      ∀ k, (readV t x).getLsbD k = ((readV s x).getLsbD k && (readV s y).getLsbD k)) ∧
    (∃ t, exec (.xorReg x y) s = .next t ∧ SameRegsBut (· = x) s t ∧ OnlyRegs s t ∧
      ∀ k, (readV t x).getLsbD k = ((readV s x).getLsbD k ^^ (readV s y).getLsbD k))

/-- 8XY4 (41_alu.md): the sum and the carry. With X = 0xF the carry stands (the write order is decision D6). -/
def Obligations.AddSetsSumAndCarry : Prop :=
  ∀ (s : State) (x y : Reg), ∃ t, exec (.addReg x y) s = .next t ∧
    (x ≠ VF → (readV t x).toNat = ((readV s x).toNat + (readV s y).toNat) % 256) ∧
    (readV t VF).toNat = (if (readV s x).toNat + (readV s y).toNat > 255 then 1 else 0) ∧
    SameRegsBut (fun r => r = x ∨ r = VF) s t ∧ OnlyRegs s t

/-- 8XY5 and 8XY7 (41_alu.md): the difference and "no borrow". With X = 0xF the difference stands (decision D6). -/
def Obligations.SubtractSetsDifferenceAndNoBorrow : Prop :=
  ∀ (s : State) (x y : Reg),
    (∃ t, exec (.subReg x y) s = .next t ∧
      ((readV t x).toNat : Int) = ((readV s x).toNat - (readV s y).toNat : Int) % 256 ∧
      (x ≠ VF → (readV t VF).toNat = (if (readV s x).toNat ≥ (readV s y).toNat then 1 else 0)) ∧
      SameRegsBut (fun r => r = x ∨ r = VF) s t ∧ OnlyRegs s t) ∧
    (∃ t, exec (.subn x y) s = .next t ∧
      ((readV t x).toNat : Int) = ((readV s y).toNat - (readV s x).toNat : Int) % 256 ∧
      (x ≠ VF → (readV t VF).toNat = (if (readV s y).toNat ≥ (readV s x).toNat then 1 else 0)) ∧
      SameRegsBut (fun r => r = x ∨ r = VF) s t ∧ OnlyRegs s t)

/-- 8XY6 and 8XYE (41_alu.md): one position, a 0 shifted in, the bit shifted out in VF; Y is ignored. With X = 0xF the
shifted value stands (decision D6). -/
def Obligations.ShiftsMoveOneBitIntoVF : Prop :=
  ∀ (s : State) (x y : Reg),
    (∃ t, exec (.shr x y) s = .next t ∧ (readV t x).toNat = (readV s x).toNat / 2 ∧
      (x ≠ VF → (readV t VF).toNat = (readV s x).toNat % 2) ∧
      SameRegsBut (fun r => r = x ∨ r = VF) s t ∧ OnlyRegs s t) ∧
    (∃ t, exec (.shl x y) s = .next t ∧ (readV t x).toNat = (readV s x).toNat * 2 % 256 ∧
      (x ≠ VF → (readV t VF).toNat = (readV s x).toNat / 128) ∧
      SameRegsBut (fun r => r = x ∨ r = VF) s t ∧ OnlyRegs s t)

/-- CXNN (41_alu.md): the byte sampled by this cycle, masked; it holds for every such byte (decision D10: a free input). -/
def Obligations.RandomByteIsMasked : Prop :=
  ∀ (s : State) (x : Reg) (nn : Byte), ∃ t, exec (.rnd x nn) s = .next t ∧
    (∀ k, (readV t x).getLsbD k = (s.rnd.getLsbD k && nn.getLsbD k)) ∧ SameRegsBut (· = x) s t ∧ OnlyRegs s t

/-! ### The address register and memory -/

/-- R170. -/
def Obligations.LoadAddressWritesI : Prop :=
  ∀ (s : State) (nnn : Addr12), ∃ t, exec (.ldI nnn) s = .next t ∧ t.i.toNat = nnn.toNat ∧ OnlyI s t

/-- FX1E and FX29 (42_index_memory.md): I + VX modulo 65536 with no flag (decision D2), and VX × 5 of the whole byte
(decision D11). -/
def Obligations.IndexArithmeticWritesI : Prop :=
  ∀ (s : State) (x : Reg),
    (∃ t, exec (.addI x) s = .next t ∧ t.i.toNat = (s.i.toNat + (readV s x).toNat) % 65536 ∧ OnlyI s t) ∧
    (∃ t, exec (.ldF x) s = .next t ∧ t.i.toNat = (readV s x).toNat * 5 ∧ OnlyI s t)

/-- I is written by ANNN, FX1E and FX29 and by nothing else (10_state.md section 4); it is 0 after reset. -/
def Obligations.OnlyThreeInstructionsWriteI : Prop :=
  State.reset.i = 0 ∧
  ∀ (s t : State) (i : Instr), exec i s = .next t →
    t.i.toNat = (match i with
      | .ldI nnn => nnn.toNat
      | .addI x => (s.i.toNat + (readV s x).toNat) % 65536
      | .ldF x => (readV s x).toNat * 5
      | _ => s.i.toNat)

/-- FX33 (42_index_memory.md; each address masked on its own, D2; I unchanged, D11): hundreds, tens and ones at EA(0),
EA(1), EA(2), and no other byte. -/
def Obligations.BcdStoresThreeDigits : Prop :=
  ∀ (s : State) (x : Reg), s.memWf = true → ∃ t, exec (.ldB x) s = .next t ∧
    (memRead t (ea s 0)).toNat = (readV s x).toNat / 100 ∧
    (memRead t (ea s 1)).toNat = (readV s x).toNat / 10 % 10 ∧
    (memRead t (ea s 2)).toNat = (readV s x).toNat % 10 ∧
    SameMemoryBut 3 s t ∧ t = { s with mem := t.mem }

/-- FX55 (42_index_memory.md; D2, D11): V0..VX at EA(0)..EA(X), and no other byte. -/
def Obligations.StoreRegistersWritesMemory : Prop :=
  ∀ (s : State) (x : Reg), s.memWf = true → ∃ t, exec (.ldMemVx x) s = .next t ∧
    (∀ r : Reg, r ≤ x → memRead t (ea s r.val) = readV s r) ∧
    SameMemoryBut (x.val + 1) s t ∧ t = { s with mem := t.mem }

/-- FX65 (42_index_memory.md; D2, D11): V0..VX from EA(0)..EA(X), and no other register. -/
def Obligations.LoadRegistersReadsMemory : Prop :=
  ∀ (s : State) (x : Reg), ∃ t, exec (.ldVxMem x) s = .next t ∧
    (∀ r : Reg, r ≤ x → readV t r = memRead s (ea s r.val)) ∧
    SameRegsBut (· ≤ x) s t ∧ OnlyRegs s t

/-- "`FX55` followed immediately by `FX65` with the same I and X restores V0..VX to their pre-dump values": for any I, and
even with the registers and everything but memory and I disturbed between the two. -/
def Obligations.LoadRestoresStoredRegisters : Prop :=
  ∀ (s t u : State) (x : Reg), s.memWf = true → exec (.ldMemVx x) s = .next t →
    u.mem = t.mem → u.i = t.i → u.config = t.config →
    ∃ u', exec (.ldVxMem x) u = .next u' ∧ ∀ r : Reg, r ≤ x → readV u' r = readV s r

/-- Memory changes only at the addresses an instruction presents (20_memory.md section 1), each masked, and only FX33 and
FX55 change it at all. -/
def Obligations.OnlyPresentedBytesChange : Prop :=
  ∀ (s t : State) (i : Instr), exec i s = .next t →
    (∀ a : Addr, (∀ e ∈ dataAddrs i s, effective a ≠ effective e) → memRead t a = memRead s a) ∧
    ((∀ x, i ≠ .ldB x) → (∀ x, i ≠ .ldMemVx x) → t.mem = s.mem)

/-- A stored instruction is the one the next fetch reads (20_memory.md section 5): after an FX55 that stores VK and VK+1
where PC points, the next fetch is of those two registers. -/
def Obligations.FetchSeesStores : Prop :=
  ∀ (s t : State) (x r r' : Reg), s.memWf = true → exec (.ldMemVx x) s = .next t →
    r'.val = r.val + 1 → r' ≤ x → effective s.pc = effective (ea s r.val) →
    fetchWord t = readV s r ++ readV s r'

/-! ### Display -/

/-- R190. -/
def Obligations.ClearTurnsEveryCellOff : Prop :=
  ∀ (s : State), ∃ t, exec .cls s = .next t ∧ (∀ x y, x < 64 → y < 32 → pixel t.fb x y = false) ∧ t.dirty = true ∧
    t = { s with fb := t.fb, dirty := true } ∧ SameMemory s t

/-- DXYN (43_display.md): each cell inside the clip window is flipped where the sprite bit is 1 and every other cell keeps
its value; VF is 1 exactly when a lit bit met a lit cell; DIRTY is set. The loop of the model draws what this closed form
says. (Most significant bit leftmost and the origin sampled before VF is cleared are decision D7; masking is D2.) -/
def Obligations.DrawFlipsTheCoveredCells : Prop :=
  ∀ (s : State) (x y : Reg) (n : Fin 16), ∃ t, exec (.drw x y n) s = .next t ∧
    (∀ cx cy, cx < 64 → cy < 32 →
      pixel t.fb cx cy = (pixel s.fb cx cy ^^ spriteCovers s (readV s x) (readV s y) n.val cx cy)) ∧
    ((∃ cx cy, spriteCovers s (readV s x) (readV s y) n.val cx cy = true ∧ pixel s.fb cx cy = true) →
      readV t VF = 1) ∧
    ((¬∃ cx cy, spriteCovers s (readV s x) (readV s y) n.val cx cy = true ∧ pixel s.fb cx cy = true) →
      readV t VF = 0) ∧
    SameRegsBut (· = VF) s t ∧ t.dirty = true ∧ t = { s with v := t.v, fb := t.fb, dirty := true } ∧ SameMemory s t

/-- "Drawing the same sprite twice at the same origin restores the buffer" (43_display.md R196), the origin being the same
when the two registers read the same modulo 64 and 32 after the first draw (which VF as X or Y need not). The second draw
reports a collision exactly when some covered cell was off before the first: R196's sentence leaves that condition out, and
R193's algorithm, which the model follows, has it (log 23). -/
def Obligations.DrawingTwiceRestoresTheBuffer : Prop :=
  ∀ (s t u : State) (x y : Reg) (n : Fin 16), exec (.drw x y n) s = .next t → exec (.drw x y n) t = .next u →
    (readV t x).toNat % 64 = (readV s x).toNat % 64 → (readV t y).toNat % 32 = (readV s y).toNat % 32 →
    u.fb = s.fb ∧
    (readV u VF = 1 ↔
      ∃ cx cy, spriteCovers s (readV s x) (readV s y) n.val cx cy = true ∧ pixel s.fb cx cy = false)

/-- DIRTY is set by 00E0 and DXYN, always, and no other instruction changes it (10_state.md section 10). -/
def Obligations.OnlyDrawingSetsDirty : Prop :=
  ∀ (s t : State) (i : Instr), exec i s = .next t →
    ((i = .cls ∨ ∃ x y n, i = .drw x y n) → t.dirty = true) ∧
    (i ≠ .cls → (∀ x y n, i ≠ .drw x y n) → t.dirty = s.dirty ∧ t.fb = s.fb)

/-! ### Timers and keys -/

/-- R210. -/
def Obligations.ReadDelayTimer : Prop :=
  ∀ (s : State) (x : Reg), ∃ t, exec (.ldVxDt x) s = .next t ∧ readV t x = s.dt ∧ SameRegsBut (· = x) s t ∧ OnlyRegs s t

/-- R211, R212. -/
def Obligations.SetTimers : Prop :=
  ∀ (s : State) (x : Reg),
    (∃ t, exec (.ldDtVx x) s = .next t ∧ t.dt = readV s x ∧ t = { s with dt := t.dt } ∧ SameMemory s t) ∧
    (∃ t, exec (.ldStVx x) s = .next t ∧ t.st = readV s x ∧ t = { s with st := t.st } ∧ SameMemory s t)

/-- The Tick event (44_timers_keys.md section 2): each timer down by one, no lower than 0, and nothing else, whatever FAULT
is (decision D17). -/
def Obligations.TickCountsBothTimersDown : Prop :=
  ∀ (s : State) (rest : List HostEvent), s.inbox = .tick :: rest → ∃ t, step s = .next t ∧
    t.dt.toNat = s.dt.toNat - 1 ∧ t.st.toNat = s.st.toNat - 1 ∧
    t = { s with dt := t.dt, st := t.st, inbox := rest } ∧ SameMemory s t

/-- DT and ST do not change between two ticks but by FX15 and FX18 (70_reset_and_hazards.md section 4). -/
def Obligations.OnlyTimerMovesChangeTimers : Prop :=
  ∀ (s t : State) (i : Instr), exec i s = .next t →
    ((∀ x, i ≠ .ldDtVx x) → t.dt = s.dt) ∧ ((∀ x, i ≠ .ldStVx x) → t.st = s.st)

/-- EX9E and EXA1 (44_timers_keys.md section 3): they skip exactly when key VX is, is not, pressed in this cycle's sample;
above 15 the key is not pressed, or its low nibble's is, as the core's KEY_OOR says (decision D8). -/
def Obligations.KeySkips : Prop :=
  ∀ (s : State) (x : Reg), ∃ p : Bool,
    ((readV s x).toNat ≤ 15 → p = s.keys.getLsbD (readV s x).toNat) ∧
    (15 < (readV s x).toNat → s.config.keyOor = .notPressed → p = false) ∧
    (15 < (readV s x).toNat → s.config.keyOor = .lowNibble → p = s.keys.getLsbD ((readV s x).toNat % 16)) ∧
    (∃ t, exec (.skp x) s = .next t ∧ t.pc = (if p then s.pc + 2 else s.pc) ∧ OnlyPc s t) ∧
    (∃ t, exec (.sknp x) s = .next t ∧ t.pc = (if p then s.pc else s.pc + 2) ∧ OnlyPc s t)

/-- FX0A (44_timers_keys.md section 4): with no key pressed PC goes back by 2 and nothing else changes; otherwise VX takes
the index of the lowest-numbered pressed key. One sample for the whole cycle, completion on its level and no waiting bit
are decision D9 (log 15), a premise of this statement. -/
def Obligations.KeyWaitRetriesOrTakesTheLowestKey : Prop :=
  ∀ (s : State) (x : Reg), ∃ t, exec (.ldVxK x) s = .next t ∧
    (s.keys = 0 → t.pc = s.pc - 2 ∧ OnlyPc s t) ∧
    (s.keys ≠ 0 → (readV t x).toNat < 16 ∧ s.keys.getLsbD (readV t x).toNat = true ∧
      (∀ k, k < (readV t x).toNat → s.keys.getLsbD k = false) ∧ SameRegsBut (· = x) s t ∧ OnlyRegs s t)

/-- A waiting cycle's net effect is none (44_timers_keys.md section 4, 10_state.md section 12). That a core waits exactly
when FX0A meets an empty sample, with no waiting bit, is decision D9 (log 15), a premise of this statement. -/
def Obligations.WaitingCycleChangesNothing : Prop :=
  ∀ (s : State) (keys : BitVec 16) (rnd : Byte), WaitingForKey keys s →
    ∃ t, runCycle keys rnd s = .next t ∧ SameArch s t

/-! ### Whole-machine rules -/

/-- Every instruction in every state answers a next state, and none touches the core's parameters, its inputs or the
model's own fields ("the core never resets key state"). That a call at capacity and a return at depth 0 answer a next state
too rests on the fatal conditions being one of the model (60_exceptions.md sections 2 and 3, decision D4, log 11). -/
def Obligations.EveryInstructionLeavesTheInputs : Prop :=
  ∀ (s : State) (i : Instr), ∃ t, exec i s = .next t ∧
    t.config = s.config ∧ t.keys = s.keys ∧ t.rnd = s.rnd ∧ t.inbox = s.inbox ∧ t.draws = s.draws ∧ t.running = s.running

/-- VF changes only by an instruction that sets it as a flag or names it as its destination (10_state.md section 3). -/
def Obligations.VFChangesOnlyWhenWritten : Prop :=
  ∀ (s t : State) (i : Instr), exec i s = .next t → readV t VF ≠ readV s VF →
    (∃ x y, i = .addReg x y ∨ i = .subReg x y ∨ i = .shr x y ∨ i = .subn x y ∨ i = .shl x y) ∨
    (∃ x y n, i = .drw x y n) ∨
    (∃ nn, i = .ldByte VF nn ∨ i = .addByte VF nn ∨ i = .rnd VF nn) ∨
    (∃ y, i = .ldReg VF y ∨ i = .orReg VF y ∨ i = .andReg VF y ∨ i = .xorReg VF y) ∨
    i = .ldVxDt VF ∨ i = .ldVxK VF ∨ i = .ldVxMem VF

/-- The random byte is "ignored by every instruction other than CXNN" and the key sample is read by EX9E, EXA1 and FX0A
only (10_state.md section 11, decisions D9, D10): any other instruction does the same on any two samples. -/
def Obligations.SamplesReachOnlyTheirReaders : Prop :=
  ∀ (s t : State) (i : Instr) (keys : BitVec 16) (rnd : Byte), exec i s = .next t →
    ((∀ x nn, i ≠ .rnd x nn) → exec i { s with rnd := rnd } = .next { t with rnd := rnd }) ∧
    ((∀ x, i ≠ .skp x) → (∀ x, i ≠ .sknp x) → (∀ x, i ≠ .ldVxK x) →
      exec i { s with keys := keys } = .next { t with keys := keys })

/-- "The top four bits of I are not observable by a program", nor those of PC (10_state.md sections 4 and 5): two states
that agree on everything else answer alike at every step, for ever. -/
def Obligations.TopAddressBitsAreUnobservable : Prop :=
  ∀ (s t : State), LooksSame s t →
    (∀ s', step s = .next s' → ∃ t', step t = .next t' ∧ LooksSame s' t') ∧
    (∀ r, step s = .fault r → step t = .fault r) ∧ (∀ r, step s ≠ .refused r)

/-- A parked core (70_reset_and_hazards.md section 3, the convention of decision D23) changes nothing at any later Cycle. -/
def Obligations.ParkedCoreStaysParked : Prop :=
  ∀ (s : State) (keys : BitVec 16) (rnd : Byte), Parked s →
    ∃ t, runCycle keys rnd s = .next t ∧ SameArch s t ∧ Parked t

/-! ### Reset, load, the invariant -/

/-- The reset values of 10_state.md section 14, on every core (DIRTY, FAULT and STACK_DEPTH are the spec's decisions D12, D4,
D1; the font's bytes D13), and that one Reset event leaves them, on the same core, whatever the state was (the slots, all
of memory and the one atomic event are decision D21, log 20). The samples and `running` go to their reset values, and
`inbox` and `draws` stay: the model's choice (logs 1, 5 and 20). -/
def Obligations.ResetLeavesTheResetValues : Prop :=
  State.reset = State.resetWith { stackDepth := 16, font := defaultFont, keyOor := .notPressed } ∧
  (∀ c : Config, ResetValues (State.resetWith c) ∧ (State.resetWith c).config = c) ∧
  (∀ (s : State) (rest : List HostEvent), s.inbox = .reset :: rest →
    ∃ t, step s = .next t ∧ ResetValues t ∧ SameArch (State.resetWith s.config) t ∧
      (∀ a : Addr, memRead t a = unlisted s.config (effective a)) ∧
      t = { State.resetWith s.config with inbox := rest, draws := s.draws })

/-- RenderAck clears DIRTY and does nothing else (60_exceptions.md section 6; who clears it is decision D12). -/
def Obligations.RenderAckClearsDirty : Prop :=
  ∀ (s : State) (rest : List HostEvent), s.inbox = .renderAck :: rest →
    step s = .next { s with dirty := false, inbox := rest }

/-- A Load before the first Cycle writes one byte; a Load in a run stops the run (the model's choice, log 5: the spec gives
it no meaning). -/
def Obligations.LoadWritesOneByteBeforeTheRun : Prop :=
  ∀ (s : State) (a : Addr12) (b : Byte) (rest : List HostEvent), s.memWf = true → s.inbox = .load a b :: rest →
    (s.running = false → ∃ t, step s = .next t ∧
      (∀ a' : Addr, memRead t a' = if effective a' = a.toNat then b else memRead s a') ∧
      t = { s with mem := t.mem, inbox := rest }) ∧
    (s.running = true → step s = .fault .loadDuringRun)

/-- The launch state (70_reset_and_hazards.md section 2, decision D22, log 22): from reset, on every legal core, the loader's
events for any ROM of at most 3584 bytes put byte i at 0x200 + i, leave every other byte at its reset contents, and change
nothing else. -/
def Obligations.LoaderReachesTheLaunchState : Prop :=
  ∀ (c : Config) (rom : List Byte), c.wf = true → romFits rom = true →
    ∃ t, Sys2Proof.core.run rom.length { State.resetWith c with inbox := romEvents rom } = .next t ∧
      (∀ k, k < rom.length → memRead t (BitVec.ofNat 16 (0x200 + k)) = rom.getD k 0) ∧
      (∀ a : Addr, effective a < 0x200 ∨ 0x200 + rom.length ≤ effective a →
        memRead t a = memRead (State.resetWith c) a) ∧
      t = { State.resetWith c with mem := t.mem } ∧ t.memWf = true

/-- The order of events on one clock edge (10_state.md section 13, the one normative content of the port binding, decision
D16, log 19): reset alone; else exactly the events whose enable is high, each once, each strictly before the next in the
order Load, RenderAck, Cycle, Tick. -/
def Obligations.EdgeOrdersItsEvents : Prop :=
  ∀ (c : ClockEdge),
    (c.rst = true → c.events = [.reset]) ∧
    (c.rst = false →
      .reset ∉ c.events ∧
      (∀ a b, .load a b ∈ c.events ↔ c.load = some (a, b)) ∧
      (.renderAck ∈ c.events ↔ c.renderAck = true) ∧
      (∀ k b, .cycle k b ∈ c.events ↔ c.cycle = some (k, b)) ∧
      (.tick ∈ c.events ↔ c.tick = true) ∧
      c.events.Nodup ∧ c.events.Pairwise (fun e e' => edgePlace e < edgePlace e'))

/-- The state right after reset meets the invariant, on every core the spec allows. -/
def Obligations.ResetMeetsTheInvariant : Prop :=
  State.reset.Inv ∧ ∀ c : Config, c.wf = true → (State.resetWith c).Inv

/-- Every step keeps the invariant: a legal core, canonical memory, STACK_DEPTH slots, 0 ≤ SP ≤ STACK_DEPTH ("pointer never
exceeds capacity"), and FAULT set only at a full or an empty stack. -/
def Obligations.StepKeepsTheInvariant : Prop :=
  ∀ (s t : State), s.Inv → step s = .next t → t.Inv
end

