-- ==== Sys2Proof/Laws/Decode.lean ====
section
/-! SUPPORT. The fields of the encoder's words, and the arithmetic of the fields (spec/30_encoding.md R92). -/

namespace Sys2Proof

/-! The fields as numbers. -/

theorem fieldT_val (w : Opcode) : (fieldT w).val = w.toNat / 4096 := by
  have := w.isLt
  simp [fieldT, Nat.shiftRight_eq_div_pow]
  omega

theorem fieldX_val (w : Opcode) : (fieldX w).val = w.toNat / 256 % 16 := by
  simp [fieldX, Nat.shiftRight_eq_div_pow]

theorem fieldY_val (w : Opcode) : (fieldY w).val = w.toNat / 16 % 16 := by
  simp [fieldY, Nat.shiftRight_eq_div_pow]

theorem fieldN_val (w : Opcode) : (fieldN w).val = w.toNat % 16 := by
  simp [fieldN]

theorem fieldNN_toNat (w : Opcode) : (fieldNN w).toNat = w.toNat % 256 := by
  simp [fieldNN, BitVec.extractLsb'_toNat]

theorem fieldNNN_toNat (w : Opcode) : (fieldNNN w).toNat = w.toNat % 4096 := by
  simp [fieldNNN, BitVec.extractLsb'_toNat]

/-! The encoder's words as numbers. -/

theorem toNat_append (m n : Nat) (a : BitVec m) (b : BitVec n) : (a ++ b).toNat = a.toNat * 2 ^ n + b.toNat := by
  rw [BitVec.toNat_append, Nat.shiftLeft_eq, Nat.mul_comm]
  exact (Nat.two_pow_add_eq_or_of_lt b.isLt a.toNat).symm

theorem wordNNN_toNat (t : BitVec 4) (nnn : Addr12) : (wordNNN t nnn).toNat = t.toNat * 4096 + nnn.toNat :=
  toNat_append 4 12 t nnn

theorem wordXNN_toNat (t : BitVec 4) (x : Reg) (nn : Byte) :
    (wordXNN t x nn).toNat = t.toNat * 4096 + x.val * 256 + nn.toNat := by
  rw [wordXNN, toNat_append 4 12, toNat_append 4 8]
  simp; omega

theorem wordXYN_toNat (t : BitVec 4) (x y n : Fin 16) :
    (wordXYN t x y n).toNat = t.toNat * 4096 + x.val * 256 + y.val * 16 + n.val := by
  rw [wordXYN, toNat_append 4 12, toNat_append 4 8, toNat_append 4 4]
  simp; omega

/-! The fields of the encoder's words. -/

@[simp] theorem fieldT_wordNNN (t : BitVec 4) (nnn : Addr12) : (fieldT (wordNNN t nnn)).val = t.toNat := by
  have := nnn.isLt
  rw [fieldT_val, wordNNN_toNat]; omega

@[simp] theorem fieldNNN_wordNNN (t : BitVec 4) (nnn : Addr12) : fieldNNN (wordNNN t nnn) = nnn := by
  have := nnn.isLt
  apply BitVec.eq_of_toNat_eq
  rw [fieldNNN_toNat, wordNNN_toNat]; omega

@[simp] theorem fieldT_wordXNN (t : BitVec 4) (x : Reg) (nn : Byte) : (fieldT (wordXNN t x nn)).val = t.toNat := by
  have := nn.isLt
  have := x.isLt
  rw [fieldT_val, wordXNN_toNat]; omega

@[simp] theorem fieldX_wordXNN (t : BitVec 4) (x : Reg) (nn : Byte) : fieldX (wordXNN t x nn) = x := by
  have := nn.isLt
  have := x.isLt
  apply Fin.ext
  rw [fieldX_val, wordXNN_toNat]; omega

@[simp] theorem fieldNN_wordXNN (t : BitVec 4) (x : Reg) (nn : Byte) : fieldNN (wordXNN t x nn) = nn := by
  have := nn.isLt
  apply BitVec.eq_of_toNat_eq
  rw [fieldNN_toNat, wordXNN_toNat]; omega

@[simp] theorem fieldT_wordXYN (t : BitVec 4) (x y n : Fin 16) : (fieldT (wordXYN t x y n)).val = t.toNat := by
  have := x.isLt
  have := y.isLt
  have := n.isLt
  rw [fieldT_val, wordXYN_toNat]; omega

@[simp] theorem fieldX_wordXYN (t : BitVec 4) (x y n : Fin 16) : fieldX (wordXYN t x y n) = x := by
  have := x.isLt
  have := y.isLt
  have := n.isLt
  apply Fin.ext
  rw [fieldX_val, wordXYN_toNat]; omega

@[simp] theorem fieldY_wordXYN (t : BitVec 4) (x y n : Fin 16) : fieldY (wordXYN t x y n) = y := by
  have := x.isLt
  have := y.isLt
  have := n.isLt
  apply Fin.ext
  rw [fieldY_val, wordXYN_toNat]; omega

@[simp] theorem fieldN_wordXYN (t : BitVec 4) (x y n : Fin 16) : fieldN (wordXYN t x y n) = n := by
  have := x.isLt
  have := y.isLt
  have := n.isLt
  apply Fin.ext
  rw [fieldN_val, wordXYN_toNat]; omega

/-! The encoder's words under the masks of R96. -/

/-- A 12-bit operand under a mask of zeros. -/
theorem and_zero12 (a : BitVec 12) : a &&& 0 = 0 := BitVec.and_zero

theorem word_and_F000 (t : BitVec 4) (r : BitVec 12) : (t ++ r : Opcode) &&& 0xF000 = (t ++ (0 : BitVec 12) : Opcode) := by
  have h : (0xF000 : Opcode) = ((0xF : BitVec 4) ++ (0 : BitVec 12) : Opcode) := by decide
  have hF : t &&& 0xF = t := by revert t; decide
  rw [h, BitVec.and_append (w := 4) (v := 12), hF, and_zero12]

theorem wordXYN_and_F00F (t : BitVec 4) (x y n : Fin 16) : wordXYN t x y n &&& 0xF00F = wordXYN t 0 0 n := by
  have h : (0xF00F : Opcode) = (0xF : BitVec 4) ++ ((0 : BitVec 4) ++ ((0 : BitVec 4) ++ (0xF : BitVec 4) : BitVec 8) : BitVec 12) := by
    decide
  have hF (a : BitVec 4) : a &&& 0xF = a := by revert a; decide
  have h0 (a : BitVec 4) : a &&& 0 = 0 := BitVec.and_zero
  rw [wordXYN, h, BitVec.and_append (w := 4) (v := 12), BitVec.and_append (w := 4) (v := 8),
    BitVec.and_append (w := 4) (v := 4), hF, hF, h0, h0]
  rfl

theorem wordXNN_and_F0FF (t : BitVec 4) (x : Reg) (nn : Byte) : wordXNN t x nn &&& 0xF0FF = wordXNN t 0 nn := by
  have h : (0xF0FF : Opcode) = (0xF : BitVec 4) ++ ((0 : BitVec 4) ++ (0xFF : BitVec 8) : BitVec 12) := by decide
  have hF (a : BitVec 4) : a &&& 0xF = a := by revert a; decide
  have h0 (a : BitVec 4) : a &&& 0 = 0 := BitVec.and_zero
  have hFF (a : BitVec 8) : a &&& 0xFF = a := BitVec.and_allOnes
  rw [wordXNN, h, BitVec.and_append (w := 4) (v := 12), BitVec.and_append (w := 4) (v := 8), hF, hFF, h0]
  rfl

/-- Every word is its four nibbles. -/
theorem word_eq_wordXYN (w : Opcode) : w = wordXYN (BitVec.ofFin (fieldT w)) (fieldX w) (fieldY w) (fieldN w) := by
  have := w.isLt
  apply BitVec.eq_of_toNat_eq
  rw [wordXYN_toNat, show (BitVec.ofFin (fieldT w) : BitVec 4).toNat = (fieldT w).val from rfl, fieldT_val, fieldX_val, fieldY_val, fieldN_val]; omega

/-- Every word is a nibble and NNN. -/
theorem word_eq_wordNNN (w : Opcode) : w = wordNNN (BitVec.ofFin (fieldT w)) (fieldNNN w) := by
  have := w.isLt
  apply BitVec.eq_of_toNat_eq
  rw [wordNNN_toNat, show (BitVec.ofFin (fieldT w) : BitVec 4).toNat = (fieldT w).val from rfl, fieldT_val, fieldNNN_toNat]; omega

/-- Every word is a nibble, X and NN. -/
theorem word_eq_wordXNN (w : Opcode) : w = wordXNN (BitVec.ofFin (fieldT w)) (fieldX w) (fieldNN w) := by
  have := w.isLt
  apply BitVec.eq_of_toNat_eq
  rw [wordXNN_toNat, show (BitVec.ofFin (fieldT w) : BitVec 4).toNat = (fieldT w).val from rfl, fieldT_val, fieldX_val, fieldNN_toNat]; omega

/-! Big-endian words (spec/20_memory.md R61). -/

theorem wordOfBytes_toNat (hi lo : Byte) : (wordOfBytes hi lo).toNat = hi.toNat * 256 + lo.toNat :=
  toNat_append 8 8 hi lo

theorem wordOfBytes_hiByte_loByte (w : Opcode) : wordOfBytes (hiByte w) (loByte w) = w := by
  have := w.isLt
  apply BitVec.eq_of_toNat_eq
  rw [wordOfBytes_toNat]
  simp [hiByte, loByte, BitVec.extractLsb'_toNat, Nat.shiftRight_eq_div_pow]
  omega

end Sys2Proof
end

