-- ==== Sys2Proof/Laws/State.lean ====
section
/-! SUPPORT. One lemma per field per named update of the state, true by rfl, so that no later proof unfolds one. -/

namespace Sys2Proof.Machine

/-! `writeV`. -/

@[simp] theorem writeV_v (r : Reg) (b : Byte) (s : State) : (writeV r b s).v = s.v.set r.val b := rfl
@[simp] theorem writeV_i (r : Reg) (b : Byte) (s : State) : (writeV r b s).i = s.i := rfl
@[simp] theorem writeV_pc (r : Reg) (b : Byte) (s : State) : (writeV r b s).pc = s.pc := rfl
@[simp] theorem writeV_sp (r : Reg) (b : Byte) (s : State) : (writeV r b s).sp = s.sp := rfl
@[simp] theorem writeV_stack (r : Reg) (b : Byte) (s : State) : (writeV r b s).stack = s.stack := rfl
@[simp] theorem writeV_mem (r : Reg) (b : Byte) (s : State) : (writeV r b s).mem = s.mem := rfl
@[simp] theorem writeV_fb (r : Reg) (b : Byte) (s : State) : (writeV r b s).fb = s.fb := rfl
@[simp] theorem writeV_dt (r : Reg) (b : Byte) (s : State) : (writeV r b s).dt = s.dt := rfl
@[simp] theorem writeV_st (r : Reg) (b : Byte) (s : State) : (writeV r b s).st = s.st := rfl
@[simp] theorem writeV_dirty (r : Reg) (b : Byte) (s : State) : (writeV r b s).dirty = s.dirty := rfl
@[simp] theorem writeV_fault (r : Reg) (b : Byte) (s : State) : (writeV r b s).fault = s.fault := rfl
@[simp] theorem writeV_keys (r : Reg) (b : Byte) (s : State) : (writeV r b s).keys = s.keys := rfl
@[simp] theorem writeV_rnd (r : Reg) (b : Byte) (s : State) : (writeV r b s).rnd = s.rnd := rfl
@[simp] theorem writeV_config (r : Reg) (b : Byte) (s : State) : (writeV r b s).config = s.config := rfl
@[simp] theorem writeV_inbox (r : Reg) (b : Byte) (s : State) : (writeV r b s).inbox = s.inbox := rfl
@[simp] theorem writeV_draws (r : Reg) (b : Byte) (s : State) : (writeV r b s).draws = s.draws := rfl
@[simp] theorem writeV_running (r : Reg) (b : Byte) (s : State) : (writeV r b s).running = s.running := rfl

/-! `memWrite`. -/

@[simp] theorem memWrite_v (a : Addr) (b : Byte) (s : State) : (memWrite a b s).v = s.v := rfl
@[simp] theorem memWrite_i (a : Addr) (b : Byte) (s : State) : (memWrite a b s).i = s.i := rfl
@[simp] theorem memWrite_pc (a : Addr) (b : Byte) (s : State) : (memWrite a b s).pc = s.pc := rfl
@[simp] theorem memWrite_sp (a : Addr) (b : Byte) (s : State) : (memWrite a b s).sp = s.sp := rfl
@[simp] theorem memWrite_stack (a : Addr) (b : Byte) (s : State) : (memWrite a b s).stack = s.stack := rfl
@[simp] theorem memWrite_mem (a : Addr) (b : Byte) (s : State) : (memWrite a b s).mem = Memory.write (unlisted s.config) s.mem (effective a) b := rfl
@[simp] theorem memWrite_fb (a : Addr) (b : Byte) (s : State) : (memWrite a b s).fb = s.fb := rfl
@[simp] theorem memWrite_dt (a : Addr) (b : Byte) (s : State) : (memWrite a b s).dt = s.dt := rfl
@[simp] theorem memWrite_st (a : Addr) (b : Byte) (s : State) : (memWrite a b s).st = s.st := rfl
@[simp] theorem memWrite_dirty (a : Addr) (b : Byte) (s : State) : (memWrite a b s).dirty = s.dirty := rfl
@[simp] theorem memWrite_fault (a : Addr) (b : Byte) (s : State) : (memWrite a b s).fault = s.fault := rfl
@[simp] theorem memWrite_keys (a : Addr) (b : Byte) (s : State) : (memWrite a b s).keys = s.keys := rfl
@[simp] theorem memWrite_rnd (a : Addr) (b : Byte) (s : State) : (memWrite a b s).rnd = s.rnd := rfl
@[simp] theorem memWrite_config (a : Addr) (b : Byte) (s : State) : (memWrite a b s).config = s.config := rfl
@[simp] theorem memWrite_inbox (a : Addr) (b : Byte) (s : State) : (memWrite a b s).inbox = s.inbox := rfl
@[simp] theorem memWrite_draws (a : Addr) (b : Byte) (s : State) : (memWrite a b s).draws = s.draws := rfl
@[simp] theorem memWrite_running (a : Addr) (b : Byte) (s : State) : (memWrite a b s).running = s.running := rfl

/-! `setI`. -/

@[simp] theorem setI_v (a : Addr) (s : State) : (setI a s).v = s.v := rfl
@[simp] theorem setI_i (a : Addr) (s : State) : (setI a s).i = a := rfl
@[simp] theorem setI_pc (a : Addr) (s : State) : (setI a s).pc = s.pc := rfl
@[simp] theorem setI_sp (a : Addr) (s : State) : (setI a s).sp = s.sp := rfl
@[simp] theorem setI_stack (a : Addr) (s : State) : (setI a s).stack = s.stack := rfl
@[simp] theorem setI_mem (a : Addr) (s : State) : (setI a s).mem = s.mem := rfl
@[simp] theorem setI_fb (a : Addr) (s : State) : (setI a s).fb = s.fb := rfl
@[simp] theorem setI_dt (a : Addr) (s : State) : (setI a s).dt = s.dt := rfl
@[simp] theorem setI_st (a : Addr) (s : State) : (setI a s).st = s.st := rfl
@[simp] theorem setI_dirty (a : Addr) (s : State) : (setI a s).dirty = s.dirty := rfl
@[simp] theorem setI_fault (a : Addr) (s : State) : (setI a s).fault = s.fault := rfl
@[simp] theorem setI_keys (a : Addr) (s : State) : (setI a s).keys = s.keys := rfl
@[simp] theorem setI_rnd (a : Addr) (s : State) : (setI a s).rnd = s.rnd := rfl
@[simp] theorem setI_config (a : Addr) (s : State) : (setI a s).config = s.config := rfl
@[simp] theorem setI_inbox (a : Addr) (s : State) : (setI a s).inbox = s.inbox := rfl
@[simp] theorem setI_draws (a : Addr) (s : State) : (setI a s).draws = s.draws := rfl
@[simp] theorem setI_running (a : Addr) (s : State) : (setI a s).running = s.running := rfl

/-! `setPc`. -/

@[simp] theorem setPc_v (a : Addr) (s : State) : (setPc a s).v = s.v := rfl
@[simp] theorem setPc_i (a : Addr) (s : State) : (setPc a s).i = s.i := rfl
@[simp] theorem setPc_pc (a : Addr) (s : State) : (setPc a s).pc = a := rfl
@[simp] theorem setPc_sp (a : Addr) (s : State) : (setPc a s).sp = s.sp := rfl
@[simp] theorem setPc_stack (a : Addr) (s : State) : (setPc a s).stack = s.stack := rfl
@[simp] theorem setPc_mem (a : Addr) (s : State) : (setPc a s).mem = s.mem := rfl
@[simp] theorem setPc_fb (a : Addr) (s : State) : (setPc a s).fb = s.fb := rfl
@[simp] theorem setPc_dt (a : Addr) (s : State) : (setPc a s).dt = s.dt := rfl
@[simp] theorem setPc_st (a : Addr) (s : State) : (setPc a s).st = s.st := rfl
@[simp] theorem setPc_dirty (a : Addr) (s : State) : (setPc a s).dirty = s.dirty := rfl
@[simp] theorem setPc_fault (a : Addr) (s : State) : (setPc a s).fault = s.fault := rfl
@[simp] theorem setPc_keys (a : Addr) (s : State) : (setPc a s).keys = s.keys := rfl
@[simp] theorem setPc_rnd (a : Addr) (s : State) : (setPc a s).rnd = s.rnd := rfl
@[simp] theorem setPc_config (a : Addr) (s : State) : (setPc a s).config = s.config := rfl
@[simp] theorem setPc_inbox (a : Addr) (s : State) : (setPc a s).inbox = s.inbox := rfl
@[simp] theorem setPc_draws (a : Addr) (s : State) : (setPc a s).draws = s.draws := rfl
@[simp] theorem setPc_running (a : Addr) (s : State) : (setPc a s).running = s.running := rfl

/-! `setDt`. -/

@[simp] theorem setDt_v (b : Byte) (s : State) : (setDt b s).v = s.v := rfl
@[simp] theorem setDt_i (b : Byte) (s : State) : (setDt b s).i = s.i := rfl
@[simp] theorem setDt_pc (b : Byte) (s : State) : (setDt b s).pc = s.pc := rfl
@[simp] theorem setDt_sp (b : Byte) (s : State) : (setDt b s).sp = s.sp := rfl
@[simp] theorem setDt_stack (b : Byte) (s : State) : (setDt b s).stack = s.stack := rfl
@[simp] theorem setDt_mem (b : Byte) (s : State) : (setDt b s).mem = s.mem := rfl
@[simp] theorem setDt_fb (b : Byte) (s : State) : (setDt b s).fb = s.fb := rfl
@[simp] theorem setDt_dt (b : Byte) (s : State) : (setDt b s).dt = b := rfl
@[simp] theorem setDt_st (b : Byte) (s : State) : (setDt b s).st = s.st := rfl
@[simp] theorem setDt_dirty (b : Byte) (s : State) : (setDt b s).dirty = s.dirty := rfl
@[simp] theorem setDt_fault (b : Byte) (s : State) : (setDt b s).fault = s.fault := rfl
@[simp] theorem setDt_keys (b : Byte) (s : State) : (setDt b s).keys = s.keys := rfl
@[simp] theorem setDt_rnd (b : Byte) (s : State) : (setDt b s).rnd = s.rnd := rfl
@[simp] theorem setDt_config (b : Byte) (s : State) : (setDt b s).config = s.config := rfl
@[simp] theorem setDt_inbox (b : Byte) (s : State) : (setDt b s).inbox = s.inbox := rfl
@[simp] theorem setDt_draws (b : Byte) (s : State) : (setDt b s).draws = s.draws := rfl
@[simp] theorem setDt_running (b : Byte) (s : State) : (setDt b s).running = s.running := rfl

/-! `setSt`. -/

@[simp] theorem setSt_v (b : Byte) (s : State) : (setSt b s).v = s.v := rfl
@[simp] theorem setSt_i (b : Byte) (s : State) : (setSt b s).i = s.i := rfl
@[simp] theorem setSt_pc (b : Byte) (s : State) : (setSt b s).pc = s.pc := rfl
@[simp] theorem setSt_sp (b : Byte) (s : State) : (setSt b s).sp = s.sp := rfl
@[simp] theorem setSt_stack (b : Byte) (s : State) : (setSt b s).stack = s.stack := rfl
@[simp] theorem setSt_mem (b : Byte) (s : State) : (setSt b s).mem = s.mem := rfl
@[simp] theorem setSt_fb (b : Byte) (s : State) : (setSt b s).fb = s.fb := rfl
@[simp] theorem setSt_dt (b : Byte) (s : State) : (setSt b s).dt = s.dt := rfl
@[simp] theorem setSt_st (b : Byte) (s : State) : (setSt b s).st = b := rfl
@[simp] theorem setSt_dirty (b : Byte) (s : State) : (setSt b s).dirty = s.dirty := rfl
@[simp] theorem setSt_fault (b : Byte) (s : State) : (setSt b s).fault = s.fault := rfl
@[simp] theorem setSt_keys (b : Byte) (s : State) : (setSt b s).keys = s.keys := rfl
@[simp] theorem setSt_rnd (b : Byte) (s : State) : (setSt b s).rnd = s.rnd := rfl
@[simp] theorem setSt_config (b : Byte) (s : State) : (setSt b s).config = s.config := rfl
@[simp] theorem setSt_inbox (b : Byte) (s : State) : (setSt b s).inbox = s.inbox := rfl
@[simp] theorem setSt_draws (b : Byte) (s : State) : (setSt b s).draws = s.draws := rfl
@[simp] theorem setSt_running (b : Byte) (s : State) : (setSt b s).running = s.running := rfl

/-! `setDirty`. -/

@[simp] theorem setDirty_v (d : Bool) (s : State) : (setDirty d s).v = s.v := rfl
@[simp] theorem setDirty_i (d : Bool) (s : State) : (setDirty d s).i = s.i := rfl
@[simp] theorem setDirty_pc (d : Bool) (s : State) : (setDirty d s).pc = s.pc := rfl
@[simp] theorem setDirty_sp (d : Bool) (s : State) : (setDirty d s).sp = s.sp := rfl
@[simp] theorem setDirty_stack (d : Bool) (s : State) : (setDirty d s).stack = s.stack := rfl
@[simp] theorem setDirty_mem (d : Bool) (s : State) : (setDirty d s).mem = s.mem := rfl
@[simp] theorem setDirty_fb (d : Bool) (s : State) : (setDirty d s).fb = s.fb := rfl
@[simp] theorem setDirty_dt (d : Bool) (s : State) : (setDirty d s).dt = s.dt := rfl
@[simp] theorem setDirty_st (d : Bool) (s : State) : (setDirty d s).st = s.st := rfl
@[simp] theorem setDirty_dirty (d : Bool) (s : State) : (setDirty d s).dirty = d := rfl
@[simp] theorem setDirty_fault (d : Bool) (s : State) : (setDirty d s).fault = s.fault := rfl
@[simp] theorem setDirty_keys (d : Bool) (s : State) : (setDirty d s).keys = s.keys := rfl
@[simp] theorem setDirty_rnd (d : Bool) (s : State) : (setDirty d s).rnd = s.rnd := rfl
@[simp] theorem setDirty_config (d : Bool) (s : State) : (setDirty d s).config = s.config := rfl
@[simp] theorem setDirty_inbox (d : Bool) (s : State) : (setDirty d s).inbox = s.inbox := rfl
@[simp] theorem setDirty_draws (d : Bool) (s : State) : (setDirty d s).draws = s.draws := rfl
@[simp] theorem setDirty_running (d : Bool) (s : State) : (setDirty d s).running = s.running := rfl

/-! `pushPc`. -/

@[simp] theorem pushPc_v (s : State) : (pushPc s).v = s.v := rfl
@[simp] theorem pushPc_i (s : State) : (pushPc s).i = s.i := rfl
@[simp] theorem pushPc_pc (s : State) : (pushPc s).pc = s.pc := rfl
@[simp] theorem pushPc_sp (s : State) : (pushPc s).sp = s.sp + 1 := rfl
@[simp] theorem pushPc_stack (s : State) : (pushPc s).stack = s.stack.set s.sp s.pc := rfl
@[simp] theorem pushPc_mem (s : State) : (pushPc s).mem = s.mem := rfl
@[simp] theorem pushPc_fb (s : State) : (pushPc s).fb = s.fb := rfl
@[simp] theorem pushPc_dt (s : State) : (pushPc s).dt = s.dt := rfl
@[simp] theorem pushPc_st (s : State) : (pushPc s).st = s.st := rfl
@[simp] theorem pushPc_dirty (s : State) : (pushPc s).dirty = s.dirty := rfl
@[simp] theorem pushPc_fault (s : State) : (pushPc s).fault = s.fault := rfl
@[simp] theorem pushPc_keys (s : State) : (pushPc s).keys = s.keys := rfl
@[simp] theorem pushPc_rnd (s : State) : (pushPc s).rnd = s.rnd := rfl
@[simp] theorem pushPc_config (s : State) : (pushPc s).config = s.config := rfl
@[simp] theorem pushPc_inbox (s : State) : (pushPc s).inbox = s.inbox := rfl
@[simp] theorem pushPc_draws (s : State) : (pushPc s).draws = s.draws := rfl
@[simp] theorem pushPc_running (s : State) : (pushPc s).running = s.running := rfl

/-! `popPc`. -/

@[simp] theorem popPc_v (s : State) : (popPc s).v = s.v := rfl
@[simp] theorem popPc_i (s : State) : (popPc s).i = s.i := rfl
@[simp] theorem popPc_pc (s : State) : (popPc s).pc = s.stack.getD (s.sp - 1) 0x0000 := rfl
@[simp] theorem popPc_sp (s : State) : (popPc s).sp = s.sp - 1 := rfl
@[simp] theorem popPc_stack (s : State) : (popPc s).stack = s.stack := rfl
@[simp] theorem popPc_mem (s : State) : (popPc s).mem = s.mem := rfl
@[simp] theorem popPc_fb (s : State) : (popPc s).fb = s.fb := rfl
@[simp] theorem popPc_dt (s : State) : (popPc s).dt = s.dt := rfl
@[simp] theorem popPc_st (s : State) : (popPc s).st = s.st := rfl
@[simp] theorem popPc_dirty (s : State) : (popPc s).dirty = s.dirty := rfl
@[simp] theorem popPc_fault (s : State) : (popPc s).fault = s.fault := rfl
@[simp] theorem popPc_keys (s : State) : (popPc s).keys = s.keys := rfl
@[simp] theorem popPc_rnd (s : State) : (popPc s).rnd = s.rnd := rfl
@[simp] theorem popPc_config (s : State) : (popPc s).config = s.config := rfl
@[simp] theorem popPc_inbox (s : State) : (popPc s).inbox = s.inbox := rfl
@[simp] theorem popPc_draws (s : State) : (popPc s).draws = s.draws := rfl
@[simp] theorem popPc_running (s : State) : (popPc s).running = s.running := rfl

/-! `raiseFatal`. -/

@[simp] theorem raiseFatal_v (c : FaultCode) (s : State) : (raiseFatal c s).v = s.v := rfl
@[simp] theorem raiseFatal_i (c : FaultCode) (s : State) : (raiseFatal c s).i = s.i := rfl
@[simp] theorem raiseFatal_pc (c : FaultCode) (s : State) : (raiseFatal c s).pc = s.pc := rfl
@[simp] theorem raiseFatal_sp (c : FaultCode) (s : State) : (raiseFatal c s).sp = s.sp := rfl
@[simp] theorem raiseFatal_stack (c : FaultCode) (s : State) : (raiseFatal c s).stack = s.stack := rfl
@[simp] theorem raiseFatal_mem (c : FaultCode) (s : State) : (raiseFatal c s).mem = s.mem := rfl
@[simp] theorem raiseFatal_fb (c : FaultCode) (s : State) : (raiseFatal c s).fb = s.fb := rfl
@[simp] theorem raiseFatal_dt (c : FaultCode) (s : State) : (raiseFatal c s).dt = s.dt := rfl
@[simp] theorem raiseFatal_st (c : FaultCode) (s : State) : (raiseFatal c s).st = s.st := rfl
@[simp] theorem raiseFatal_dirty (c : FaultCode) (s : State) : (raiseFatal c s).dirty = s.dirty := rfl
@[simp] theorem raiseFatal_fault (c : FaultCode) (s : State) : (raiseFatal c s).fault = c := rfl
@[simp] theorem raiseFatal_keys (c : FaultCode) (s : State) : (raiseFatal c s).keys = s.keys := rfl
@[simp] theorem raiseFatal_rnd (c : FaultCode) (s : State) : (raiseFatal c s).rnd = s.rnd := rfl
@[simp] theorem raiseFatal_config (c : FaultCode) (s : State) : (raiseFatal c s).config = s.config := rfl
@[simp] theorem raiseFatal_inbox (c : FaultCode) (s : State) : (raiseFatal c s).inbox = s.inbox := rfl
@[simp] theorem raiseFatal_draws (c : FaultCode) (s : State) : (raiseFatal c s).draws = s.draws := rfl
@[simp] theorem raiseFatal_running (c : FaultCode) (s : State) : (raiseFatal c s).running = s.running := rfl

/-! `setDisplay`. -/

@[simp] theorem setDisplay_v (fb : Display) (s : State) : (setDisplay fb s).v = s.v := rfl
@[simp] theorem setDisplay_i (fb : Display) (s : State) : (setDisplay fb s).i = s.i := rfl
@[simp] theorem setDisplay_pc (fb : Display) (s : State) : (setDisplay fb s).pc = s.pc := rfl
@[simp] theorem setDisplay_sp (fb : Display) (s : State) : (setDisplay fb s).sp = s.sp := rfl
@[simp] theorem setDisplay_stack (fb : Display) (s : State) : (setDisplay fb s).stack = s.stack := rfl
@[simp] theorem setDisplay_mem (fb : Display) (s : State) : (setDisplay fb s).mem = s.mem := rfl
@[simp] theorem setDisplay_fb (fb : Display) (s : State) : (setDisplay fb s).fb = fb := rfl
@[simp] theorem setDisplay_dt (fb : Display) (s : State) : (setDisplay fb s).dt = s.dt := rfl
@[simp] theorem setDisplay_st (fb : Display) (s : State) : (setDisplay fb s).st = s.st := rfl
@[simp] theorem setDisplay_dirty (fb : Display) (s : State) : (setDisplay fb s).dirty = true := rfl
@[simp] theorem setDisplay_fault (fb : Display) (s : State) : (setDisplay fb s).fault = s.fault := rfl
@[simp] theorem setDisplay_keys (fb : Display) (s : State) : (setDisplay fb s).keys = s.keys := rfl
@[simp] theorem setDisplay_rnd (fb : Display) (s : State) : (setDisplay fb s).rnd = s.rnd := rfl
@[simp] theorem setDisplay_config (fb : Display) (s : State) : (setDisplay fb s).config = s.config := rfl
@[simp] theorem setDisplay_inbox (fb : Display) (s : State) : (setDisplay fb s).inbox = s.inbox := rfl
@[simp] theorem setDisplay_draws (fb : Display) (s : State) : (setDisplay fb s).draws = s.draws := rfl
@[simp] theorem setDisplay_running (fb : Display) (s : State) : (setDisplay fb s).running = s.running := rfl

/-! `afterFetch`. -/

@[simp] theorem afterFetch_v (k : BitVec 16) (b : Byte) (s : State) : (afterFetch k b s).v = s.v := rfl
@[simp] theorem afterFetch_i (k : BitVec 16) (b : Byte) (s : State) : (afterFetch k b s).i = s.i := rfl
@[simp] theorem afterFetch_pc (k : BitVec 16) (b : Byte) (s : State) : (afterFetch k b s).pc = s.pc + 2 := rfl
@[simp] theorem afterFetch_sp (k : BitVec 16) (b : Byte) (s : State) : (afterFetch k b s).sp = s.sp := rfl
@[simp] theorem afterFetch_stack (k : BitVec 16) (b : Byte) (s : State) : (afterFetch k b s).stack = s.stack := rfl
@[simp] theorem afterFetch_mem (k : BitVec 16) (b : Byte) (s : State) : (afterFetch k b s).mem = s.mem := rfl
@[simp] theorem afterFetch_fb (k : BitVec 16) (b : Byte) (s : State) : (afterFetch k b s).fb = s.fb := rfl
@[simp] theorem afterFetch_dt (k : BitVec 16) (b : Byte) (s : State) : (afterFetch k b s).dt = s.dt := rfl
@[simp] theorem afterFetch_st (k : BitVec 16) (b : Byte) (s : State) : (afterFetch k b s).st = s.st := rfl
@[simp] theorem afterFetch_dirty (k : BitVec 16) (b : Byte) (s : State) : (afterFetch k b s).dirty = s.dirty := rfl
@[simp] theorem afterFetch_fault (k : BitVec 16) (b : Byte) (s : State) : (afterFetch k b s).fault = s.fault := rfl
@[simp] theorem afterFetch_keys (k : BitVec 16) (b : Byte) (s : State) : (afterFetch k b s).keys = k := rfl
@[simp] theorem afterFetch_rnd (k : BitVec 16) (b : Byte) (s : State) : (afterFetch k b s).rnd = b := rfl
@[simp] theorem afterFetch_config (k : BitVec 16) (b : Byte) (s : State) : (afterFetch k b s).config = s.config := rfl
@[simp] theorem afterFetch_inbox (k : BitVec 16) (b : Byte) (s : State) : (afterFetch k b s).inbox = s.inbox := rfl
@[simp] theorem afterFetch_draws (k : BitVec 16) (b : Byte) (s : State) : (afterFetch k b s).draws = s.draws := rfl
@[simp] theorem afterFetch_running (k : BitVec 16) (b : Byte) (s : State) : (afterFetch k b s).running = true := rfl

/-! `skipIf` changes PC alone. -/

@[simp] theorem skipIf_pc (c : Bool) (s : State) : (skipIf c s).pc = if c then s.pc + 2 else s.pc := by
  cases c <;> rfl

@[simp] theorem skipIf_v (c : Bool) (s : State) : (skipIf c s).v = s.v := by
  cases c <;> rfl
@[simp] theorem skipIf_i (c : Bool) (s : State) : (skipIf c s).i = s.i := by
  cases c <;> rfl
@[simp] theorem skipIf_sp (c : Bool) (s : State) : (skipIf c s).sp = s.sp := by
  cases c <;> rfl
@[simp] theorem skipIf_stack (c : Bool) (s : State) : (skipIf c s).stack = s.stack := by
  cases c <;> rfl
@[simp] theorem skipIf_mem (c : Bool) (s : State) : (skipIf c s).mem = s.mem := by
  cases c <;> rfl
@[simp] theorem skipIf_fb (c : Bool) (s : State) : (skipIf c s).fb = s.fb := by
  cases c <;> rfl
@[simp] theorem skipIf_dt (c : Bool) (s : State) : (skipIf c s).dt = s.dt := by
  cases c <;> rfl
@[simp] theorem skipIf_st (c : Bool) (s : State) : (skipIf c s).st = s.st := by
  cases c <;> rfl
@[simp] theorem skipIf_dirty (c : Bool) (s : State) : (skipIf c s).dirty = s.dirty := by
  cases c <;> rfl
@[simp] theorem skipIf_fault (c : Bool) (s : State) : (skipIf c s).fault = s.fault := by
  cases c <;> rfl
@[simp] theorem skipIf_keys (c : Bool) (s : State) : (skipIf c s).keys = s.keys := by
  cases c <;> rfl
@[simp] theorem skipIf_rnd (c : Bool) (s : State) : (skipIf c s).rnd = s.rnd := by
  cases c <;> rfl
@[simp] theorem skipIf_config (c : Bool) (s : State) : (skipIf c s).config = s.config := by
  cases c <;> rfl
@[simp] theorem skipIf_inbox (c : Bool) (s : State) : (skipIf c s).inbox = s.inbox := by
  cases c <;> rfl
@[simp] theorem skipIf_draws (c : Bool) (s : State) : (skipIf c s).draws = s.draws := by
  cases c <;> rfl
@[simp] theorem skipIf_running (c : Bool) (s : State) : (skipIf c s).running = s.running := by
  cases c <;> rfl

/-! A reset state, field by field (spec/10_state.md R50). -/

@[simp] theorem resetWith_v (c : Config) : (State.resetWith c).v = Vector.replicate 16 0x00 := rfl
@[simp] theorem resetWith_i (c : Config) : (State.resetWith c).i = 0x0000 := rfl
@[simp] theorem resetWith_pc (c : Config) : (State.resetWith c).pc = entryPoint := rfl
@[simp] theorem resetWith_sp (c : Config) : (State.resetWith c).sp = 0 := rfl
@[simp] theorem resetWith_stack (c : Config) : (State.resetWith c).stack = List.replicate c.stackDepth 0x0000 := rfl
@[simp] theorem resetWith_mem (c : Config) : (State.resetWith c).mem = [] := rfl
@[simp] theorem resetWith_fb (c : Config) : (State.resetWith c).fb = blankDisplay := rfl
@[simp] theorem resetWith_dt (c : Config) : (State.resetWith c).dt = 0x00 := rfl
@[simp] theorem resetWith_st (c : Config) : (State.resetWith c).st = 0x00 := rfl
@[simp] theorem resetWith_dirty (c : Config) : (State.resetWith c).dirty = false := rfl
@[simp] theorem resetWith_fault (c : Config) : (State.resetWith c).fault = .none := rfl
@[simp] theorem resetWith_keys (c : Config) : (State.resetWith c).keys = 0x0000 := rfl
@[simp] theorem resetWith_rnd (c : Config) : (State.resetWith c).rnd = 0x00 := rfl
@[simp] theorem resetWith_config (c : Config) : (State.resetWith c).config = c := rfl
@[simp] theorem resetWith_inbox (c : Config) : (State.resetWith c).inbox = [] := rfl
@[simp] theorem resetWith_draws (c : Config) : (State.resetWith c).draws = 0 := rfl
@[simp] theorem resetWith_running (c : Config) : (State.resetWith c).running = false := rfl

end Sys2Proof.Machine
end

