-- ==== Sys2Proof/Laws/Memory.lean ====
section
/-! SUPPORT. The laws of memory: a read after a write, the canonical form kept, and equal reads of canonical memories
being equal memories. -/

namespace Sys2Proof.Machine

variable {base : Nat → Byte}

theorem Memory.read_cons (k : Nat) (b : Byte) (m : Memory) (a : Nat) :
    Memory.read base ((k, b) :: m) a = if k = a then b else Memory.read base m a := rfl

/-- The canonical form of a memory with a first entry. -/
theorem Memory.wf_cons (k : Nat) (b : Byte) (m : Memory) :
    Memory.wf base ((k, b) :: m) = true ↔
      k < 4096 ∧ b ≠ base k ∧ (∀ c ∈ m, k < c.1) ∧ Memory.wf base m = true := by
  simp [Memory.wf, and_assoc]

/-- A memory whose entries are all above `a` reads at `a` what an unlisted address reads as. -/
theorem Memory.read_below (m : Memory) (a : Nat) (h : ∀ c ∈ m, a < c.1) : Memory.read base m a = base a := by
  induction m with
  | nil => rfl
  | cons c m ih =>
    obtain ⟨k, b⟩ := c
    have hk : a < k := h (k, b) (by simp)
    rw [Memory.read_cons, if_neg (by omega)]
    exact ih fun c hc => h c (by simp [hc])

/-- A write leaves every other address alone. -/
theorem Memory.read_write_other (m : Memory) (a : Nat) (b : Byte) (a' : Nat) (h : a' ≠ a) :
    Memory.read base (Memory.write base m a b) a' = Memory.read base m a' := by
  have h' : a ≠ a' := h.symm
  induction m with
  | nil =>
    unfold Memory.write
    split
    · rfl
    · rw [Memory.read_cons, if_neg h']
  | cons c m ih =>
    obtain ⟨k, c⟩ := c
    unfold Memory.write
    split
    · split
      · rfl
      · rw [Memory.read_cons, if_neg h']
    · split
      · rename_i hk
        subst hk
        split
        · rw [Memory.read_cons, if_neg h']
        · rw [Memory.read_cons, Memory.read_cons, if_neg h', if_neg h']
      · rw [Memory.read_cons, Memory.read_cons, ih]

/-- The address written reads as the byte written, in a canonical memory. -/
theorem Memory.read_write_same (m : Memory) (a : Nat) (b : Byte) (hm : Memory.wf base m = true) :
    Memory.read base (Memory.write base m a b) a = b := by
  induction m with
  | nil =>
    unfold Memory.write
    split
    · exact Eq.symm ‹_›
    · rw [Memory.read_cons, if_pos rfl]
  | cons c m ih =>
    obtain ⟨k, c⟩ := c
    obtain ⟨-, -, hlt, hwf⟩ := (Memory.wf_cons k c m).1 hm
    have below : a ≤ k → Memory.read base m a = base a := fun h =>
      Memory.read_below m a fun d hd => by have := hlt d hd; omega
    unfold Memory.write
    split
    · split
      · rw [Memory.read_cons, if_neg (by omega), below (by omega)]
        exact Eq.symm ‹_›
      · rw [Memory.read_cons, if_pos rfl]
    · split
      · split
        · rw [below (by omega)]
          exact Eq.symm ‹_›
        · rw [Memory.read_cons, if_pos rfl]
      · rw [Memory.read_cons, if_neg (by omega), ih hwf]

/-- A read after a write, in a canonical memory. -/
theorem Memory.read_write (m : Memory) (a : Nat) (b : Byte) (a' : Nat) (hm : Memory.wf base m = true) :
    Memory.read base (Memory.write base m a b) a' = if a' = a then b else Memory.read base m a' := by
  split
  · subst a'
    exact Memory.read_write_same m a b hm
  · exact Memory.read_write_other m a b a' ‹_›

/-- The addresses of a memory after a write: those before it and the one written. -/
theorem Memory.mem_write (m : Memory) (a : Nat) (b : Byte) (c : Host.Cell) (h : c ∈ Memory.write base m a b) :
    c ∈ m ∨ c.1 = a := by
  induction m with
  | nil =>
    unfold Memory.write at h
    split at h
    · exact absurd h (List.not_mem_nil)
    · simp only [List.mem_singleton] at h
      simp [h]
  | cons d m ih =>
    obtain ⟨k, d⟩ := d
    unfold Memory.write at h
    split at h
    · split at h
      · exact .inl h
      · rcases List.mem_cons.1 h with h | h
        · simp [h]
        · exact .inl h
    · split at h
      · split at h
        · exact .inl (List.mem_cons_of_mem _ h)
        · rcases List.mem_cons.1 h with h | h
          · simp [h]
          · exact .inl (List.mem_cons_of_mem _ h)
      · rcases List.mem_cons.1 h with h | h
        · simp [h]
        · rcases ih h with h | h <;> simp [h]

/-- A write keeps the canonical form. -/
theorem Memory.write_wf (m : Memory) (a : Nat) (b : Byte) (ha : a < 4096) (hm : Memory.wf base m = true) :
    Memory.wf base (Memory.write base m a b) = true := by
  induction m with
  | nil =>
    unfold Memory.write
    split
    · rfl
    · simp_all [Memory.wf]
  | cons d m ih =>
    obtain ⟨k, d⟩ := d
    obtain ⟨hk, hd, hlt, hwf⟩ := (Memory.wf_cons k d m).1 hm
    unfold Memory.write
    split
    · split
      · exact hm
      · refine (Memory.wf_cons _ _ _).2 ⟨ha, by assumption, ?_, hm⟩
        intro c hc
        rcases List.mem_cons.1 hc with rfl | hc
        · assumption
        · have := hlt c hc; omega
    · split
      · split
        · exact hwf
        · refine (Memory.wf_cons _ _ _).2 ⟨ha, by assumption, ?_, hwf⟩
          intro c hc
          have := hlt c hc; omega
      · refine (Memory.wf_cons _ _ _).2 ⟨hk, hd, ?_, ih hwf⟩
        intro c hc
        rcases Memory.mem_write m a b c hc with h | h
        · exact hlt c h
        · omega

/-- Two canonical memories that read the same everywhere are the same list. -/
theorem Memory.eq_of_read (m m' : Memory) (hm : Memory.wf base m = true) (hm' : Memory.wf base m' = true)
    (h : ∀ a, Memory.read base m a = Memory.read base m' a) : m = m' := by
  induction m generalizing m' with
  | nil =>
    cases m' with
    | nil => rfl
    | cons c m' =>
      obtain ⟨k, c⟩ := c
      have := h k
      simp [Memory.read, ((Memory.wf_cons k c m').1 hm').2.1.symm] at this
  | cons c m ih =>
    obtain ⟨k, c⟩ := c
    obtain ⟨-, hc, hlt, hwf⟩ := (Memory.wf_cons k c m).1 hm
    cases m' with
    | nil =>
      have := h k
      simp [Memory.read, hc] at this
    | cons c' m' =>
      obtain ⟨k', c'⟩ := c'
      obtain ⟨-, hc', hlt', hwf'⟩ := (Memory.wf_cons k' c' m').1 hm'
      have hkk : k = k' := by
        rcases Nat.lt_trichotomy k k' with hlt2 | rfl | hlt2
        · have h1 := h k
          rw [Memory.read_below ((k', c') :: m') k (by
            intro d hd
            rcases List.mem_cons.1 hd with rfl | hd
            · exact hlt2
            · have := hlt' d hd; omega)] at h1
          simp [Memory.read, hc] at h1
        · rfl
        · have h1 := h k'
          rw [Memory.read_below ((k, c) :: m) k' (by
            intro d hd
            rcases List.mem_cons.1 hd with rfl | hd
            · exact hlt2
            · have := hlt d hd; omega)] at h1
          simp [Memory.read, hc'.symm] at h1
      subst hkk
      have hcc : c = c' := by simpa [Memory.read] using h k
      subst hcc
      congr 1
      refine ih m' hwf hwf' fun a => ?_
      by_cases ha : k = a
      · subst ha
        rw [Memory.read_below m k hlt, Memory.read_below m' k hlt']
      · have := h a
        rwa [Memory.read_cons, Memory.read_cons, if_neg ha, if_neg ha] at this

/-! The state's memory operations. -/

/-- An address reaches the byte at its value modulo 4096 (spec/20_memory.md R62). -/
theorem effective_eq_mod (a : Addr) : effective a = a.toNat % 4096 := by
  have h : (0x0FFF : Addr).toNat = 2 ^ 12 - 1 := by decide
  rw [effective, BitVec.toNat_and, h, Nat.and_two_pow_sub_one_eq_mod]

theorem effective_lt (a : Addr) : effective a < 4096 := by
  rw [effective_eq_mod]; omega

/-- A read after a write, in a state whose memory is canonical. -/
theorem memRead_memWrite (a : Addr) (b : Byte) (s : State) (a' : Addr) (hs : s.memWf = true) :
    memRead (memWrite a b s) a' = if effective a' = effective a then b else memRead s a' :=
  Memory.read_write s.mem (effective a) b (effective a') hs

/-- A write keeps the memory canonical. -/
theorem memWrite_memWf (a : Addr) (b : Byte) (s : State) (hs : s.memWf = true) : (memWrite a b s).memWf = true :=
  Memory.write_wf s.mem (effective a) b (effective_lt a) hs

/-- Memory and what it reads depend on the state's memory and parameters alone. -/
theorem memRead_congr {s t : State} (hm : t.mem = s.mem) (hc : t.config = s.config) (a : Addr) :
    memRead t a = memRead s a := by
  simp [memRead, hm, hc]

theorem memWf_congr {s t : State} (hm : t.mem = s.mem) (hc : t.config = s.config) : t.memWf = s.memWf := by
  simp [State.memWf, hm, hc]

/-- The memory right after reset is canonical. -/
theorem resetWith_memWf (c : Config) : (State.resetWith c).memWf = true := rfl

end Sys2Proof.Machine
end

