-- ==== Sys2Proof/Laws/Ops.lean ====
section
/-! SUPPORT. What each shared operation can do, said once: registers, the two-write order, skips, display cells, and the
loops of FX33, FX55, FX65 and DXYN. -/

namespace Sys2Proof.Machine

/-! General registers (spec/10_state.md R20). -/

/-- A register read after a register write. -/
theorem readV_writeV (r : Reg) (b : Byte) (s : State) (r' : Reg) :
    readV (writeV r b s) r' = if r' = r then b else readV s r' := by
  simp only [readV, writeV_v, Vector.getElem_set, Fin.ext_iff, eq_comm (a := r'.val)]

@[simp] theorem readV_writeV_same (r : Reg) (b : Byte) (s : State) : readV (writeV r b s) r = b := by
  simp [readV_writeV]

theorem readV_writeV_other {r r' : Reg} (b : Byte) (s : State) (h : r' ≠ r) : readV (writeV r b s) r' = readV s r' := by
  simp [readV_writeV, h]

/-- A register's value depends on the register file alone. -/
theorem readV_congr {s t : State} (h : t.v = s.v) (r : Reg) : readV t r = readV s r := by
  simp [readV, h]

/-- Two register files that read the same are equal. -/
theorem v_ext {a b : Vector Byte 16} (h : ∀ r : Reg, a[r.val] = b[r.val]) : a = b :=
  Vector.ext fun k hk => h ⟨k, hk⟩

/-- 8XY4's two writes: the flag stands when X is 0xF (spec/41_alu.md R162). -/
theorem readV_resultThenFlag (x : Reg) (result flag : Byte) (s : State) (r : Reg) :
    readV (resultThenFlag x result flag s) r = if r = VF then flag else if r = x then result else readV s r := by
  simp [resultThenFlag, readV_writeV]

/-- The other flag instructions' two writes: the result stands when X is 0xF (spec/41_alu.md R162). -/
theorem readV_flagThenResult (x : Reg) (flag result : Byte) (s : State) (r : Reg) :
    readV (flagThenResult x flag result s) r = if r = x then result else if r = VF then flag else readV s r := by
  simp [flagThenResult, readV_writeV]

theorem resultThenFlag_eq (x : Reg) (result flag : Byte) (s : State) :
    resultThenFlag x result flag s = { s with v := (resultThenFlag x result flag s).v } := rfl

theorem flagThenResult_eq (x : Reg) (flag result : Byte) (s : State) :
    flagThenResult x flag result s = { s with v := (flagThenResult x flag result s).v } := rfl

/-- A skip changes PC alone (spec/40_control_flow.md R128). -/
theorem skipIf_eq (c : Bool) (s : State) : skipIf c s = { s with pc := if c then s.pc + 2 else s.pc } := by
  cases c <;> rfl

/-! Effective addresses (spec/42_index_memory.md R179). -/

/-- `EA(k)` reaches byte `(I + k) mod 4096`. -/
theorem effective_ea (s : State) (k : Nat) : effective (ea s k) = (s.i.toNat + k) % 4096 := by
  rw [effective_eq_mod, ea, BitVec.toNat_add, BitVec.toNat_ofNat]; omega

/-- The bytes of one instruction's range are distinct. -/
theorem effective_ea_inj (s : State) {j k : Nat} (hj : j < 16) (hk : k < 16)
    (h : effective (ea s j) = effective (ea s k)) : j = k := by
  rw [effective_ea, effective_ea] at h; omega

/-! The loops of FX55, FX33 and FX65. -/

/-- Storing registers changes memory alone. -/
theorem storeRegs_eq (s : State) (n : Nat) : storeRegs s n = { s with mem := (storeRegs s n).mem } := by
  induction n with
  | zero => rfl
  | succ n ih => rw [storeRegs, ih]; rfl

theorem storeRegs_memWf (s : State) (n : Nat) (hs : s.memWf = true) : (storeRegs s n).memWf = true := by
  induction n with
  | zero => exact hs
  | succ n ih => exact memWrite_memWf _ _ _ ih

/-- What memory reads as after storing `n ≤ 16` registers (spec/42_index_memory.md R176). -/
theorem memRead_storeRegs (s : State) (n : Nat) (hn : n ≤ 16) (hs : s.memWf = true) (a : Addr) :
    memRead (storeRegs s n) a =
      if (effective a + 4096 - s.i.toNat % 4096) % 4096 < n
      then readV s (regOf ((effective a + 4096 - s.i.toNat % 4096) % 4096)) else memRead s a := by
  have ha := effective_lt a
  induction n with
  | zero => simp [storeRegs]
  | succ n ih =>
    rw [storeRegs, memRead_memWrite _ _ _ _ (storeRegs_memWf s n hs), ih (by omega), effective_ea]
    by_cases h : (effective a + 4096 - s.i.toNat % 4096) % 4096 = n
    · rw [if_pos (by omega), if_pos (by omega), h]
    · rw [if_neg (by omega)]
      by_cases h2 : (effective a + 4096 - s.i.toNat % 4096) % 4096 < n
      · rw [if_pos h2, if_pos (by omega)]
      · rw [if_neg h2, if_neg (by omega)]

/-- Storing digits changes memory alone. -/
theorem storeDigits_eq (s : State) (vx : Byte) (n : Nat) :
    storeDigits s vx n = { s with mem := (storeDigits s vx n).mem } := by
  induction n with
  | zero => rfl
  | succ n ih => rw [storeDigits, ih]; rfl

theorem storeDigits_memWf (s : State) (vx : Byte) (n : Nat) (hs : s.memWf = true) :
    (storeDigits s vx n).memWf = true := by
  induction n with
  | zero => exact hs
  | succ n ih => exact memWrite_memWf _ _ _ ih

/-- What memory reads as after storing `n ≤ 3` digits (spec/42_index_memory.md R173). -/
theorem memRead_storeDigits (s : State) (vx : Byte) (n : Nat) (hn : n ≤ 3) (hs : s.memWf = true) (a : Addr) :
    memRead (storeDigits s vx n) a =
      if (effective a + 4096 - s.i.toNat % 4096) % 4096 < n
      then bcdDigit vx ((effective a + 4096 - s.i.toNat % 4096) % 4096) else memRead s a := by
  have ha := effective_lt a
  induction n with
  | zero => simp [storeDigits]
  | succ n ih =>
    rw [storeDigits, memRead_memWrite _ _ _ _ (storeDigits_memWf s vx n hs), ih (by omega), effective_ea]
    by_cases h : (effective a + 4096 - s.i.toNat % 4096) % 4096 = n
    · rw [if_pos (by omega), if_pos (by omega), h]
    · rw [if_neg (by omega)]
      by_cases h2 : (effective a + 4096 - s.i.toNat % 4096) % 4096 < n
      · rw [if_pos h2, if_pos (by omega)]
      · rw [if_neg h2, if_neg (by omega)]

/-- Loading registers changes the register file alone. -/
theorem loadRegs_eq (s : State) (n : Nat) : loadRegs s n = { s with v := (loadRegs s n).v } := by
  induction n with
  | zero => rfl
  | succ n ih => rw [loadRegs, ih]; rfl

/-- The register file after loading `n ≤ 16` registers (spec/42_index_memory.md R177). -/
theorem readV_loadRegs (s : State) (n : Nat) (hn : n ≤ 16) (r : Reg) :
    readV (loadRegs s n) r = if r.val < n then memRead s (ea s r.val) else readV s r := by
  induction n with
  | zero => simp [loadRegs]
  | succ n ih =>
    rw [loadRegs, readV_writeV, ih (by omega)]
    have hreg : (regOf n).val = n := by simp [regOf, Fin.ofNat]; omega
    by_cases h : r = regOf n
    · rw [if_pos h, h, hreg, if_pos (by omega)]
    · have hne : r.val ≠ n := fun e => h (Fin.ext (by rw [hreg, e]))
      rw [if_neg h]
      by_cases h2 : r.val < n
      · rw [if_pos h2, if_pos (by omega)]
      · rw [if_neg h2, if_neg (by omega)]

/-! The fields the loops and the two-write operations leave alone. -/

@[simp] theorem storeRegs_v (s : State) (n : Nat) : (storeRegs s n).v = s.v := by rw [storeRegs_eq s n]
@[simp] theorem storeRegs_i (s : State) (n : Nat) : (storeRegs s n).i = s.i := by rw [storeRegs_eq s n]
@[simp] theorem storeRegs_pc (s : State) (n : Nat) : (storeRegs s n).pc = s.pc := by rw [storeRegs_eq s n]
@[simp] theorem storeRegs_sp (s : State) (n : Nat) : (storeRegs s n).sp = s.sp := by rw [storeRegs_eq s n]
@[simp] theorem storeRegs_stack (s : State) (n : Nat) : (storeRegs s n).stack = s.stack := by rw [storeRegs_eq s n]
@[simp] theorem storeRegs_fb (s : State) (n : Nat) : (storeRegs s n).fb = s.fb := by rw [storeRegs_eq s n]
@[simp] theorem storeRegs_dt (s : State) (n : Nat) : (storeRegs s n).dt = s.dt := by rw [storeRegs_eq s n]
@[simp] theorem storeRegs_st (s : State) (n : Nat) : (storeRegs s n).st = s.st := by rw [storeRegs_eq s n]
@[simp] theorem storeRegs_dirty (s : State) (n : Nat) : (storeRegs s n).dirty = s.dirty := by rw [storeRegs_eq s n]
@[simp] theorem storeRegs_fault (s : State) (n : Nat) : (storeRegs s n).fault = s.fault := by rw [storeRegs_eq s n]
@[simp] theorem storeRegs_keys (s : State) (n : Nat) : (storeRegs s n).keys = s.keys := by rw [storeRegs_eq s n]
@[simp] theorem storeRegs_rnd (s : State) (n : Nat) : (storeRegs s n).rnd = s.rnd := by rw [storeRegs_eq s n]
@[simp] theorem storeRegs_config (s : State) (n : Nat) : (storeRegs s n).config = s.config := by rw [storeRegs_eq s n]
@[simp] theorem storeRegs_inbox (s : State) (n : Nat) : (storeRegs s n).inbox = s.inbox := by rw [storeRegs_eq s n]
@[simp] theorem storeRegs_draws (s : State) (n : Nat) : (storeRegs s n).draws = s.draws := by rw [storeRegs_eq s n]
@[simp] theorem storeRegs_running (s : State) (n : Nat) : (storeRegs s n).running = s.running := by rw [storeRegs_eq s n]
@[simp] theorem storeDigits_v (s : State) (vx : Byte) (n : Nat) : (storeDigits s vx n).v = s.v := by rw [storeDigits_eq s vx n]
@[simp] theorem storeDigits_i (s : State) (vx : Byte) (n : Nat) : (storeDigits s vx n).i = s.i := by rw [storeDigits_eq s vx n]
@[simp] theorem storeDigits_pc (s : State) (vx : Byte) (n : Nat) : (storeDigits s vx n).pc = s.pc := by rw [storeDigits_eq s vx n]
@[simp] theorem storeDigits_sp (s : State) (vx : Byte) (n : Nat) : (storeDigits s vx n).sp = s.sp := by rw [storeDigits_eq s vx n]
@[simp] theorem storeDigits_stack (s : State) (vx : Byte) (n : Nat) : (storeDigits s vx n).stack = s.stack := by rw [storeDigits_eq s vx n]
@[simp] theorem storeDigits_fb (s : State) (vx : Byte) (n : Nat) : (storeDigits s vx n).fb = s.fb := by rw [storeDigits_eq s vx n]
@[simp] theorem storeDigits_dt (s : State) (vx : Byte) (n : Nat) : (storeDigits s vx n).dt = s.dt := by rw [storeDigits_eq s vx n]
@[simp] theorem storeDigits_st (s : State) (vx : Byte) (n : Nat) : (storeDigits s vx n).st = s.st := by rw [storeDigits_eq s vx n]
@[simp] theorem storeDigits_dirty (s : State) (vx : Byte) (n : Nat) : (storeDigits s vx n).dirty = s.dirty := by rw [storeDigits_eq s vx n]
@[simp] theorem storeDigits_fault (s : State) (vx : Byte) (n : Nat) : (storeDigits s vx n).fault = s.fault := by rw [storeDigits_eq s vx n]
@[simp] theorem storeDigits_keys (s : State) (vx : Byte) (n : Nat) : (storeDigits s vx n).keys = s.keys := by rw [storeDigits_eq s vx n]
@[simp] theorem storeDigits_rnd (s : State) (vx : Byte) (n : Nat) : (storeDigits s vx n).rnd = s.rnd := by rw [storeDigits_eq s vx n]
@[simp] theorem storeDigits_config (s : State) (vx : Byte) (n : Nat) : (storeDigits s vx n).config = s.config := by rw [storeDigits_eq s vx n]
@[simp] theorem storeDigits_inbox (s : State) (vx : Byte) (n : Nat) : (storeDigits s vx n).inbox = s.inbox := by rw [storeDigits_eq s vx n]
@[simp] theorem storeDigits_draws (s : State) (vx : Byte) (n : Nat) : (storeDigits s vx n).draws = s.draws := by rw [storeDigits_eq s vx n]
@[simp] theorem storeDigits_running (s : State) (vx : Byte) (n : Nat) : (storeDigits s vx n).running = s.running := by rw [storeDigits_eq s vx n]
@[simp] theorem loadRegs_i (s : State) (n : Nat) : (loadRegs s n).i = s.i := by rw [loadRegs_eq s n]
@[simp] theorem loadRegs_pc (s : State) (n : Nat) : (loadRegs s n).pc = s.pc := by rw [loadRegs_eq s n]
@[simp] theorem loadRegs_sp (s : State) (n : Nat) : (loadRegs s n).sp = s.sp := by rw [loadRegs_eq s n]
@[simp] theorem loadRegs_stack (s : State) (n : Nat) : (loadRegs s n).stack = s.stack := by rw [loadRegs_eq s n]
@[simp] theorem loadRegs_mem (s : State) (n : Nat) : (loadRegs s n).mem = s.mem := by rw [loadRegs_eq s n]
@[simp] theorem loadRegs_fb (s : State) (n : Nat) : (loadRegs s n).fb = s.fb := by rw [loadRegs_eq s n]
@[simp] theorem loadRegs_dt (s : State) (n : Nat) : (loadRegs s n).dt = s.dt := by rw [loadRegs_eq s n]
@[simp] theorem loadRegs_st (s : State) (n : Nat) : (loadRegs s n).st = s.st := by rw [loadRegs_eq s n]
@[simp] theorem loadRegs_dirty (s : State) (n : Nat) : (loadRegs s n).dirty = s.dirty := by rw [loadRegs_eq s n]
@[simp] theorem loadRegs_fault (s : State) (n : Nat) : (loadRegs s n).fault = s.fault := by rw [loadRegs_eq s n]
@[simp] theorem loadRegs_keys (s : State) (n : Nat) : (loadRegs s n).keys = s.keys := by rw [loadRegs_eq s n]
@[simp] theorem loadRegs_rnd (s : State) (n : Nat) : (loadRegs s n).rnd = s.rnd := by rw [loadRegs_eq s n]
@[simp] theorem loadRegs_config (s : State) (n : Nat) : (loadRegs s n).config = s.config := by rw [loadRegs_eq s n]
@[simp] theorem loadRegs_inbox (s : State) (n : Nat) : (loadRegs s n).inbox = s.inbox := by rw [loadRegs_eq s n]
@[simp] theorem loadRegs_draws (s : State) (n : Nat) : (loadRegs s n).draws = s.draws := by rw [loadRegs_eq s n]
@[simp] theorem loadRegs_running (s : State) (n : Nat) : (loadRegs s n).running = s.running := by rw [loadRegs_eq s n]
@[simp] theorem resultThenFlag_i (x : Reg) (a b : Byte) (s : State) : (resultThenFlag x a b s).i = s.i := rfl
@[simp] theorem resultThenFlag_pc (x : Reg) (a b : Byte) (s : State) : (resultThenFlag x a b s).pc = s.pc := rfl
@[simp] theorem resultThenFlag_sp (x : Reg) (a b : Byte) (s : State) : (resultThenFlag x a b s).sp = s.sp := rfl
@[simp] theorem resultThenFlag_stack (x : Reg) (a b : Byte) (s : State) : (resultThenFlag x a b s).stack = s.stack := rfl
@[simp] theorem resultThenFlag_mem (x : Reg) (a b : Byte) (s : State) : (resultThenFlag x a b s).mem = s.mem := rfl
@[simp] theorem resultThenFlag_fb (x : Reg) (a b : Byte) (s : State) : (resultThenFlag x a b s).fb = s.fb := rfl
@[simp] theorem resultThenFlag_dt (x : Reg) (a b : Byte) (s : State) : (resultThenFlag x a b s).dt = s.dt := rfl
@[simp] theorem resultThenFlag_st (x : Reg) (a b : Byte) (s : State) : (resultThenFlag x a b s).st = s.st := rfl
@[simp] theorem resultThenFlag_dirty (x : Reg) (a b : Byte) (s : State) : (resultThenFlag x a b s).dirty = s.dirty := rfl
@[simp] theorem resultThenFlag_fault (x : Reg) (a b : Byte) (s : State) : (resultThenFlag x a b s).fault = s.fault := rfl
@[simp] theorem resultThenFlag_keys (x : Reg) (a b : Byte) (s : State) : (resultThenFlag x a b s).keys = s.keys := rfl
@[simp] theorem resultThenFlag_rnd (x : Reg) (a b : Byte) (s : State) : (resultThenFlag x a b s).rnd = s.rnd := rfl
@[simp] theorem resultThenFlag_config (x : Reg) (a b : Byte) (s : State) : (resultThenFlag x a b s).config = s.config := rfl
@[simp] theorem resultThenFlag_inbox (x : Reg) (a b : Byte) (s : State) : (resultThenFlag x a b s).inbox = s.inbox := rfl
@[simp] theorem resultThenFlag_draws (x : Reg) (a b : Byte) (s : State) : (resultThenFlag x a b s).draws = s.draws := rfl
@[simp] theorem resultThenFlag_running (x : Reg) (a b : Byte) (s : State) : (resultThenFlag x a b s).running = s.running := rfl
@[simp] theorem flagThenResult_i (x : Reg) (a b : Byte) (s : State) : (flagThenResult x a b s).i = s.i := rfl
@[simp] theorem flagThenResult_pc (x : Reg) (a b : Byte) (s : State) : (flagThenResult x a b s).pc = s.pc := rfl
@[simp] theorem flagThenResult_sp (x : Reg) (a b : Byte) (s : State) : (flagThenResult x a b s).sp = s.sp := rfl
@[simp] theorem flagThenResult_stack (x : Reg) (a b : Byte) (s : State) : (flagThenResult x a b s).stack = s.stack := rfl
@[simp] theorem flagThenResult_mem (x : Reg) (a b : Byte) (s : State) : (flagThenResult x a b s).mem = s.mem := rfl
@[simp] theorem flagThenResult_fb (x : Reg) (a b : Byte) (s : State) : (flagThenResult x a b s).fb = s.fb := rfl
@[simp] theorem flagThenResult_dt (x : Reg) (a b : Byte) (s : State) : (flagThenResult x a b s).dt = s.dt := rfl
@[simp] theorem flagThenResult_st (x : Reg) (a b : Byte) (s : State) : (flagThenResult x a b s).st = s.st := rfl
@[simp] theorem flagThenResult_dirty (x : Reg) (a b : Byte) (s : State) : (flagThenResult x a b s).dirty = s.dirty := rfl
@[simp] theorem flagThenResult_fault (x : Reg) (a b : Byte) (s : State) : (flagThenResult x a b s).fault = s.fault := rfl
@[simp] theorem flagThenResult_keys (x : Reg) (a b : Byte) (s : State) : (flagThenResult x a b s).keys = s.keys := rfl
@[simp] theorem flagThenResult_rnd (x : Reg) (a b : Byte) (s : State) : (flagThenResult x a b s).rnd = s.rnd := rfl
@[simp] theorem flagThenResult_config (x : Reg) (a b : Byte) (s : State) : (flagThenResult x a b s).config = s.config := rfl
@[simp] theorem flagThenResult_inbox (x : Reg) (a b : Byte) (s : State) : (flagThenResult x a b s).inbox = s.inbox := rfl
@[simp] theorem flagThenResult_draws (x : Reg) (a b : Byte) (s : State) : (flagThenResult x a b s).draws = s.draws := rfl
@[simp] theorem flagThenResult_running (x : Reg) (a b : Byte) (s : State) : (flagThenResult x a b s).running = s.running := rfl
@[simp] theorem placeWord_v (w : Opcode) (s : State) : (placeWord w s).v = s.v := rfl
@[simp] theorem placeWord_i (w : Opcode) (s : State) : (placeWord w s).i = s.i := rfl
@[simp] theorem placeWord_pc (w : Opcode) (s : State) : (placeWord w s).pc = s.pc := rfl
@[simp] theorem placeWord_sp (w : Opcode) (s : State) : (placeWord w s).sp = s.sp := rfl
@[simp] theorem placeWord_stack (w : Opcode) (s : State) : (placeWord w s).stack = s.stack := rfl
@[simp] theorem placeWord_fb (w : Opcode) (s : State) : (placeWord w s).fb = s.fb := rfl
@[simp] theorem placeWord_dt (w : Opcode) (s : State) : (placeWord w s).dt = s.dt := rfl
@[simp] theorem placeWord_st (w : Opcode) (s : State) : (placeWord w s).st = s.st := rfl
@[simp] theorem placeWord_dirty (w : Opcode) (s : State) : (placeWord w s).dirty = s.dirty := rfl
@[simp] theorem placeWord_fault (w : Opcode) (s : State) : (placeWord w s).fault = s.fault := rfl
@[simp] theorem placeWord_keys (w : Opcode) (s : State) : (placeWord w s).keys = s.keys := rfl
@[simp] theorem placeWord_rnd (w : Opcode) (s : State) : (placeWord w s).rnd = s.rnd := rfl
@[simp] theorem placeWord_config (w : Opcode) (s : State) : (placeWord w s).config = s.config := rfl
@[simp] theorem placeWord_inbox (w : Opcode) (s : State) : (placeWord w s).inbox = s.inbox := rfl
@[simp] theorem placeWord_draws (w : Opcode) (s : State) : (placeWord w s).draws = s.draws := rfl
@[simp] theorem placeWord_running (w : Opcode) (s : State) : (placeWord w s).running = s.running := rfl

/-! Display cells (spec/10_state.md R32). -/

/-- A cell read after a cell write. -/
theorem pixel_setPixel (fb : Display) (x y : Nat) (b : Bool) (x' y' : Nat) :
    pixel (setPixel fb x y b) x' y' = if x' = x ∧ y' = y ∧ x < 64 ∧ y < 32 then b else pixel fb x' y' := by
  unfold setPixel
  by_cases h : x < 64 ∧ y < 32
  · rw [dif_pos h]
    by_cases h' : x' < 64 ∧ y' < 32
    · rw [pixel, dif_pos h', pixel, dif_pos h']
      by_cases hy : y = y'
      · subst hy
        by_cases hx : x = x'
        · subst hx; cases b <;> simp [h]
        · cases b <;> simp [Ne.symm hx, h'.1]
      · simp [hy, Ne.symm hy]
    · rw [pixel, dif_neg h', pixel, dif_neg h', if_neg]
      rintro ⟨rfl, rfl, h1⟩
      exact h' h1
  · rw [dif_neg h, if_neg]
    rintro ⟨-, -, h1⟩
    exact h h1

@[simp] theorem pixel_blankDisplay (x y : Nat) : pixel blankDisplay x y = false := by
  unfold pixel blankDisplay
  split
  · rw [Vector.getElem_replicate]; exact BitVec.getLsbD_zero
  · rfl

/-- Two display buffers with the same cells are equal. -/
theorem display_ext {a b : Display} (h : ∀ x y, x < 64 → y < 32 → pixel a x y = pixel b x y) : a = b := by
  refine Vector.ext fun y hy => BitVec.eq_of_getLsbD_eq fun x hx => ?_
  have := h x y hx hy
  simpa [pixel, hx, hy] using this

/-- What plotting one lit sprite bit does (spec/43_display.md R196). -/
theorem pixel_plot (acc : Display × Bool) (x y x' y' : Nat) (h : x < 64 ∧ y < 32) :
    pixel (plot acc x y).1 x' y' = if x' = x ∧ y' = y then !pixel acc.1 x y else pixel acc.1 x' y' := by
  rw [plot, pixel_setPixel]
  by_cases hxy : x' = x ∧ y' = y
  · rw [if_pos ⟨hxy.1, hxy.2, h⟩, if_pos hxy]
  · rw [if_neg fun e => hxy ⟨e.1, e.2.1⟩, if_neg hxy]

/-! The key input. -/

/-- A pressed key's lowest index: below 16, pressed, and no lower one pressed (spec/44_timers_keys.md R217). -/
theorem lowestKey_spec (keys : BitVec 16) (h : keys ≠ 0) :
    (lowestKey keys).toNat < 16 ∧ keys.getLsbD (lowestKey keys).toNat = true ∧
      ∀ k < (lowestKey keys).toNat, keys.getLsbD k = false := by
  unfold lowestKey
  cases hf : (List.range 16).find? (fun k => keys.getLsbD k) with
  | none =>
    refine absurd (BitVec.eq_of_getLsbD_eq fun k hk => ?_) h
    have := List.find?_eq_none.1 hf k (List.mem_range.2 hk)
    simpa using this
  | some k =>
    have hk : k < 16 := List.mem_range.1 (List.mem_of_find?_eq_some hf)
    have hbit : keys.getLsbD k = true := by simpa using List.find?_some hf
    have hnat : (BitVec.ofNat 8 k).toNat = k := by rw [BitVec.toNat_ofNat]; omega
    refine ⟨by simpa [hnat] using hk, by simpa [hnat] using hbit, fun j hj => ?_⟩
    have hj' : j < k := by simpa [hnat] using hj
    obtain ⟨-, as, bs, hsplit, hall⟩ := List.find?_eq_some_iff_append.1 hf
    have hlen : as.length = k := by
      have h1 : (List.range 16)[as.length]? = some k := by rw [hsplit]; simp
      have h2 : as.length < 16 := by
        have := congrArg List.length hsplit
        simp at this; omega
      simpa [h2] using h1
    have hmem : j ∈ as := by
      have h1 : (List.range 16)[j]? = some j := by rw [List.getElem?_range (by omega)]
      rw [hsplit, List.getElem?_append_left (by omega)] at h1
      exact List.mem_of_getElem? h1
    simpa using hall j hmem

end Sys2Proof.Machine
end

