-- ==== Sys2Proof/Laws/PerInstr.lean ====
section
/-! SUPPORT. Facts about every instruction as syntax, one lemma per constructor. FitsRow: the word an instruction is
encoded as matches the row of the opcode map it stands in (spec/30_encoding.md R96). -/

namespace Sys2Proof.Laws

/-- The encoding of `i` matches its row's mask and pattern. -/
def FitsRow.Statement (i : Instr) : Prop := (rowOf i).covers (encodeWord i) = true

theorem covers_of_and (mask pattern w : Opcode) (h : w &&& mask = pattern) : (Row.mk mask pattern).covers w = true := by
  simp [Row.covers, h]

theorem FitsRow.cls : FitsRow.Statement (.cls) :=
  (by decide : (rowOf .cls).covers (encodeWord .cls) = true)
theorem FitsRow.ret : FitsRow.Statement (.ret) :=
  (by decide : (rowOf .ret).covers (encodeWord .ret) = true)
theorem FitsRow.jp (nnn : Addr12) : FitsRow.Statement (.jp nnn) :=
  covers_of_and _ _ _ (word_and_F000 _ _)
theorem FitsRow.call (nnn : Addr12) : FitsRow.Statement (.call nnn) :=
  covers_of_and _ _ _ (word_and_F000 _ _)
theorem FitsRow.seByte (x : Reg) (nn : Byte) : FitsRow.Statement (.seByte x nn) :=
  covers_of_and _ _ _ (word_and_F000 _ _)
theorem FitsRow.sneByte (x : Reg) (nn : Byte) : FitsRow.Statement (.sneByte x nn) :=
  covers_of_and _ _ _ (word_and_F000 _ _)
theorem FitsRow.seReg (x : Reg) (y : Reg) : FitsRow.Statement (.seReg x y) :=
  covers_of_and _ _ _ (wordXYN_and_F00F _ _ _ _)
theorem FitsRow.ldByte (x : Reg) (nn : Byte) : FitsRow.Statement (.ldByte x nn) :=
  covers_of_and _ _ _ (word_and_F000 _ _)
theorem FitsRow.addByte (x : Reg) (nn : Byte) : FitsRow.Statement (.addByte x nn) :=
  covers_of_and _ _ _ (word_and_F000 _ _)
theorem FitsRow.ldReg (x : Reg) (y : Reg) : FitsRow.Statement (.ldReg x y) :=
  covers_of_and _ _ _ (wordXYN_and_F00F _ _ _ _)
theorem FitsRow.orReg (x : Reg) (y : Reg) : FitsRow.Statement (.orReg x y) :=
  covers_of_and _ _ _ (wordXYN_and_F00F _ _ _ _)
theorem FitsRow.andReg (x : Reg) (y : Reg) : FitsRow.Statement (.andReg x y) :=
  covers_of_and _ _ _ (wordXYN_and_F00F _ _ _ _)
theorem FitsRow.xorReg (x : Reg) (y : Reg) : FitsRow.Statement (.xorReg x y) :=
  covers_of_and _ _ _ (wordXYN_and_F00F _ _ _ _)
theorem FitsRow.addReg (x : Reg) (y : Reg) : FitsRow.Statement (.addReg x y) :=
  covers_of_and _ _ _ (wordXYN_and_F00F _ _ _ _)
theorem FitsRow.subReg (x : Reg) (y : Reg) : FitsRow.Statement (.subReg x y) :=
  covers_of_and _ _ _ (wordXYN_and_F00F _ _ _ _)
theorem FitsRow.shr (x : Reg) (y : Reg) : FitsRow.Statement (.shr x y) :=
  covers_of_and _ _ _ (wordXYN_and_F00F _ _ _ _)
theorem FitsRow.subn (x : Reg) (y : Reg) : FitsRow.Statement (.subn x y) :=
  covers_of_and _ _ _ (wordXYN_and_F00F _ _ _ _)
theorem FitsRow.shl (x : Reg) (y : Reg) : FitsRow.Statement (.shl x y) :=
  covers_of_and _ _ _ (wordXYN_and_F00F _ _ _ _)
theorem FitsRow.sneReg (x : Reg) (y : Reg) : FitsRow.Statement (.sneReg x y) :=
  covers_of_and _ _ _ (wordXYN_and_F00F _ _ _ _)
theorem FitsRow.ldI (nnn : Addr12) : FitsRow.Statement (.ldI nnn) :=
  covers_of_and _ _ _ (word_and_F000 _ _)
theorem FitsRow.jpV0 (nnn : Addr12) : FitsRow.Statement (.jpV0 nnn) :=
  covers_of_and _ _ _ (word_and_F000 _ _)
theorem FitsRow.rnd (x : Reg) (nn : Byte) : FitsRow.Statement (.rnd x nn) :=
  covers_of_and _ _ _ (word_and_F000 _ _)
theorem FitsRow.drw (x : Reg) (y : Reg) (n : Fin 16) : FitsRow.Statement (.drw x y n) :=
  covers_of_and _ _ _ (word_and_F000 _ _)
theorem FitsRow.skp (x : Reg) : FitsRow.Statement (.skp x) :=
  covers_of_and _ _ _ (wordXNN_and_F0FF _ _ _)
theorem FitsRow.sknp (x : Reg) : FitsRow.Statement (.sknp x) :=
  covers_of_and _ _ _ (wordXNN_and_F0FF _ _ _)
theorem FitsRow.ldVxDt (x : Reg) : FitsRow.Statement (.ldVxDt x) :=
  covers_of_and _ _ _ (wordXNN_and_F0FF _ _ _)
theorem FitsRow.ldVxK (x : Reg) : FitsRow.Statement (.ldVxK x) :=
  covers_of_and _ _ _ (wordXNN_and_F0FF _ _ _)
theorem FitsRow.ldDtVx (x : Reg) : FitsRow.Statement (.ldDtVx x) :=
  covers_of_and _ _ _ (wordXNN_and_F0FF _ _ _)
theorem FitsRow.ldStVx (x : Reg) : FitsRow.Statement (.ldStVx x) :=
  covers_of_and _ _ _ (wordXNN_and_F0FF _ _ _)
theorem FitsRow.addI (x : Reg) : FitsRow.Statement (.addI x) :=
  covers_of_and _ _ _ (wordXNN_and_F0FF _ _ _)
theorem FitsRow.ldF (x : Reg) : FitsRow.Statement (.ldF x) :=
  covers_of_and _ _ _ (wordXNN_and_F0FF _ _ _)
theorem FitsRow.ldB (x : Reg) : FitsRow.Statement (.ldB x) :=
  covers_of_and _ _ _ (wordXNN_and_F0FF _ _ _)
theorem FitsRow.ldMemVx (x : Reg) : FitsRow.Statement (.ldMemVx x) :=
  covers_of_and _ _ _ (wordXNN_and_F0FF _ _ _)
theorem FitsRow.ldVxMem (x : Reg) : FitsRow.Statement (.ldVxMem x) :=
  covers_of_and _ _ _ (wordXNN_and_F0FF _ _ _)

end Sys2Proof.Laws
end

