-- ==== Sys2Proof/Laws/Step.lean ====
section
/-! SUPPORT. What a cycle, an event and a step can do, said once; and that a placed word is the word fetched. -/

namespace Sys2Proof.Machine

/-- The opcode fetched depends on PC, memory and the parameters alone. -/
theorem fetchWord_congr {s t : State} (hp : t.pc = s.pc) (hm : t.mem = s.mem) (hc : t.config = s.config) :
    fetchWord t = fetchWord s := by
  simp [fetchWord, hp, memRead_congr hm hc]

/-- A halted core does nothing in a cycle (spec/60_exceptions.md R234). -/
theorem runCycle_halted {s : State} (k : BitVec 16) (b : Byte) (h : s.fault ≠ .none) : runCycle k b s = .next s := by
  simp [runCycle, halted, h]

/-- A cycle whose opcode is an instruction executes it (spec/20_memory.md R70). -/
theorem runCycle_ok {s : State} {i : Instr} (k : BitVec 16) (b : Byte) (h : s.fault = .none)
    (hd : decodeWord (fetchWord s) = .ok i) : runCycle k b s = exec i (afterFetch k b s) := by
  simp [runCycle, halted, h, hd]

/-- A cycle whose opcode is unrecognised does the fetch alone (spec/30_encoding.md R100). -/
theorem runCycle_error {s : State} {e : Reject} (k : BitVec 16) (b : Byte) (h : s.fault = .none)
    (hd : decodeWord (fetchWord s) = .error e) : runCycle k b s = .next (afterFetch k b s) := by
  simp [runCycle, halted, h, hd]

/-- A cycle that answers a next state: a halted core did nothing, an unrecognised word did the fetch alone, or an
instruction ran (spec/20_memory.md R70). -/
theorem runCycle_cases {k : BitVec 16} {b : Byte} {s t : State} (h : runCycle k b s = .next t) :
    (halted s = true ∧ t = s) ∨
    (halted s = false ∧ (∃ e, decodeWord (fetchWord s) = .error e) ∧ t = afterFetch k b s) ∨
    (halted s = false ∧ ∃ i, decodeWord (fetchWord s) = .ok i ∧ exec i (afterFetch k b s) = .next t) := by
  unfold runCycle at h
  split at h
  · cases h
    exact .inl ⟨‹_›, rfl⟩
  · rename_i hh
    have hh : halted s = false := by simpa using hh
    split at h
    · exact .inr (.inr ⟨hh, _, ‹_›, h⟩)
    · cases h
      exact .inr (.inl ⟨hh, ⟨_, ‹_›⟩, rfl⟩)

/-- A step with no event scripted is a cycle with the free samples, or nothing on a halted core. -/
theorem step_of_empty {s : State} (h : s.inbox = []) :
    step s = if halted s then .next s
      else runCycle (Config.freeKeys s.draws) (Config.freeByte s.draws) { s with draws := s.draws + 1 } := by
  simp [step, h, freeCycle]

/-- A step with an event scripted is that event on the rest. -/
theorem step_of_event {s : State} {e : HostEvent} {rest : List HostEvent} (h : s.inbox = e :: rest) :
    step s = applyEvent e { s with inbox := rest } := by
  simp [step, h]

/-- A step that answers a next state: a halted core with nothing scripted did nothing; a cycle ran, with scripted or free
samples; or one of the other events was applied. -/
theorem step_cases {s t : State} (h : step s = .next t) :
    (halted s = true ∧ s.inbox = [] ∧ t = s) ∨
    (halted s = false ∧ s.inbox = [] ∧
      runCycle (Config.freeKeys s.draws) (Config.freeByte s.draws) { s with draws := s.draws + 1 } = .next t) ∨
    (∃ k b rest, s.inbox = .cycle k b :: rest ∧ runCycle k b { s with inbox := rest } = .next t) ∨
    (∃ rest, s.inbox = .tick :: rest ∧ t = applyTick { s with inbox := rest }) ∨
    (∃ rest, s.inbox = .renderAck :: rest ∧ t = applyRenderAck { s with inbox := rest }) ∨
    (∃ rest, s.inbox = .reset :: rest ∧ t = applyReset { s with inbox := rest }) ∨
    (∃ a b rest, s.inbox = .load a b :: rest ∧ s.running = false ∧
      t = memWrite (zextAddr a) b { s with inbox := rest }) := by
  obtain hin | ⟨e, rest, hin⟩ : s.inbox = [] ∨ ∃ e rest, s.inbox = e :: rest := by
    cases s.inbox <;> simp
  · rw [step_of_empty hin] at h
    by_cases hh : halted s = true
    · rw [if_pos hh] at h
      cases h
      exact .inl ⟨hh, hin, rfl⟩
    · rw [if_neg hh] at h
      exact .inr (.inl ⟨by simpa using hh, hin, h⟩)
  · rw [step_of_event hin] at h
    cases e with
    | reset => cases h; exact .inr (.inr (.inr (.inr (.inr (.inl ⟨rest, hin, rfl⟩)))))
    | load a b =>
      have h : (if s.running then .fault .loadDuringRun else .next (memWrite (zextAddr a) b { s with inbox := rest })
        : Answer) = .next t := h
      by_cases hr : s.running = true
      · rw [if_pos hr] at h
        cases h
      · rw [if_neg hr] at h
        cases h
        exact .inr (.inr (.inr (.inr (.inr (.inr ⟨a, b, rest, hin, by simpa using hr, rfl⟩)))))
    | cycle k b => exact .inr (.inr (.inl ⟨k, b, rest, hin, h⟩))
    | tick => cases h; exact .inr (.inr (.inr (.inl ⟨rest, hin, rfl⟩)))
    | renderAck => cases h; exact .inr (.inr (.inr (.inr (.inl ⟨rest, hin, rfl⟩))))

/-- A placed word is the word fetched, in a state whose memory is canonical (spec/20_memory.md R61, R68). -/
theorem fetchWord_placeWord (w : Opcode) (s : State) (hs : s.memWf = true) : fetchWord (placeWord w s) = w := by
  have hne : effective s.pc ≠ effective (s.pc + 1) := by
    rw [effective_eq_mod, effective_eq_mod, BitVec.toNat_add]
    simp; omega
  have hw := memWrite_memWf s.pc (hiByte w) s hs
  simp only [fetchWord, placeWord, memWrite_pc]
  rw [memRead_memWrite _ _ _ _ hw, memRead_memWrite _ _ _ _ hw, if_neg hne, if_pos rfl, memRead_memWrite _ _ _ _ hs,
    if_pos rfl, wordOfBytes_hiByte_loByte]

/-- One more step of a run is one step and then the rest. -/
theorem core_run_succ {s t : State} (n : Nat) (h : step s = .next t) :
    Sys2Proof.core.run (n + 1) s = Sys2Proof.core.run n t := by
  have hc : Sys2Proof.core.step s = .next t := h
  simp only [Host.Core.run, hc]

end Sys2Proof.Machine
end

