-- ==== Sys2Proof/Tests/Slice0.lean ====
section
/-! SUPPORT. Tests of the model on small states. Every expected value is from the spec: the number after "95" names the
vector of spec/95_test_vectors.md, the others are worked from the rule named. -/

namespace Sys2Proof.Tests

open Sys2Proof.Machine

/-! Helpers. -/

/-- The state with some registers written. -/
def regs (l : List (Reg × Byte)) (s : State) : State := l.foldl (fun s p => writeV p.1 p.2 s) s

/-- The state with bytes stored from address `a` upward. -/
def bytes (a : Addr) : List Byte → State → State
  | [], s => s
  | b :: bs, s => memWrite a b (bytes (a + 1) bs s)

/-- One Cycle on `s` with the word `w` placed at PC. -/
def cycleOn (w : Opcode) (s : State) (keys : BitVec 16 := 0) (rnd : Byte := 0) : Option State :=
  match runCycle keys rnd (placeWord w s) with
  | .next t => some t
  | _ => none

/-- One step of `s`. -/
def stepOn (s : State) : Option State :=
  match step s with
  | .next t => some t
  | _ => none

/-- The reset state. -/
def z : State := State.reset

/-! WellFormed: an ill-formed term for each check. -/

theorem test_wf_depth_11 : ({ defaultConfig with stackDepth := 11 } : Config).wf = false := by decide
theorem test_wf_depth_17 : ({ defaultConfig with stackDepth := 17 } : Config).wf = false := by decide
theorem test_wf_font_79 : ({ defaultConfig with font := defaultFont.drop 1 } : Config).wf = false := by decide
theorem test_wf_default : defaultConfig.wf = true := by decide
theorem test_wf_rom_3585 : romFits (List.replicate 3585 0) = false := by
  rw [romFits, List.length_replicate]; decide
theorem test_wf_rom_3584 : romFits (List.replicate 3584 0) = true := by
  rw [romFits, List.length_replicate]; decide
theorem test_wf_instr : Instr.wf (.drw 15 15 15) = true := by decide

/-! Decode: every pattern of R96, its digits written out, with distinct field values. -/

theorem test_decode_00E0 : decodeWord 0x00E0 = .ok .cls := by decide
theorem test_decode_00EE : decodeWord 0x00EE = .ok .ret := by decide
theorem test_decode_1NNN : decodeWord 0x1ABC = .ok (.jp 0xABC) := by decide
theorem test_decode_2NNN : decodeWord 0x2ABC = .ok (.call 0xABC) := by decide
theorem test_decode_3XNN : decodeWord 0x3A12 = .ok (.seByte 0xA 0x12) := by decide
theorem test_decode_4XNN : decodeWord 0x4A12 = .ok (.sneByte 0xA 0x12) := by decide
theorem test_decode_5XY0 : decodeWord 0x5A70 = .ok (.seReg 0xA 7) := by decide
theorem test_decode_6XNN : decodeWord 0x6A12 = .ok (.ldByte 0xA 0x12) := by decide
theorem test_decode_7XNN : decodeWord 0x7A12 = .ok (.addByte 0xA 0x12) := by decide
theorem test_decode_8XY0 : decodeWord 0x8A70 = .ok (.ldReg 0xA 7) := by decide
theorem test_decode_8XY1 : decodeWord 0x8A71 = .ok (.orReg 0xA 7) := by decide
theorem test_decode_8XY2 : decodeWord 0x8A72 = .ok (.andReg 0xA 7) := by decide
theorem test_decode_8XY3 : decodeWord 0x8A73 = .ok (.xorReg 0xA 7) := by decide
theorem test_decode_8XY4 : decodeWord 0x8A74 = .ok (.addReg 0xA 7) := by decide
theorem test_decode_8XY5 : decodeWord 0x8A75 = .ok (.subReg 0xA 7) := by decide
theorem test_decode_8XY6 : decodeWord 0x8A76 = .ok (.shr 0xA 7) := by decide
theorem test_decode_8XY7 : decodeWord 0x8A77 = .ok (.subn 0xA 7) := by decide
theorem test_decode_8XYE : decodeWord 0x8A7E = .ok (.shl 0xA 7) := by decide
theorem test_decode_9XY0 : decodeWord 0x9A70 = .ok (.sneReg 0xA 7) := by decide
theorem test_decode_ANNN : decodeWord 0xABCD = .ok (.ldI 0xBCD) := by decide
theorem test_decode_BNNN : decodeWord 0xBCDE = .ok (.jpV0 0xCDE) := by decide
theorem test_decode_CXNN : decodeWord 0xCA12 = .ok (.rnd 0xA 0x12) := by decide
theorem test_decode_DXYN : decodeWord 0xDA7C = .ok (.drw 0xA 7 0xC) := by decide
theorem test_decode_EX9E : decodeWord 0xEA9E = .ok (.skp 0xA) := by decide
theorem test_decode_EXA1 : decodeWord 0xEBA1 = .ok (.sknp 0xB) := by decide
theorem test_decode_FX07 : decodeWord 0xFA07 = .ok (.ldVxDt 0xA) := by decide
theorem test_decode_FX0A : decodeWord 0xFB0A = .ok (.ldVxK 0xB) := by decide
theorem test_decode_FX15 : decodeWord 0xFA15 = .ok (.ldDtVx 0xA) := by decide
theorem test_decode_FX18 : decodeWord 0xFA18 = .ok (.ldStVx 0xA) := by decide
theorem test_decode_FX1E : decodeWord 0xFA1E = .ok (.addI 0xA) := by decide
theorem test_decode_FX29 : decodeWord 0xFA29 = .ok (.ldF 0xA) := by decide
theorem test_decode_FX33 : decodeWord 0xFA33 = .ok (.ldB 0xA) := by decide
theorem test_decode_FX55 : decodeWord 0xFA55 = .ok (.ldMemVx 0xA) := by decide
theorem test_decode_FX65 : decodeWord 0xFA65 = .ok (.ldVxMem 0xA) := by decide

/-- 95 section 2.2: the unrecognised words and the family each is rejected under. -/
theorem test_decode_unrecognised :
    [0x0000, 0x00E1, 0x00FF, 0x00C1, 0x0123, 0x5121, 0x8128, 0x812F, 0x9121, 0xE19F, 0xF100, 0xF175].map decodeWord =
    [.error .family0, .error .family0, .error .family0, .error .family0, .error .family0, .error .family5,
     .error .family8, .error .family8, .error .family9, .error .familyE, .error .familyF, .error .familyF] := by decide

/-- R61, R90: the byte at the lower address is the high one; fewer than two bytes are no instruction. -/
theorem test_decode_bytes : decode [0x6A, 0x12, 0xFF] = .ok (.ldByte 0xA 0x12, [0xFF]) := by decide
theorem test_decode_truncated : decode [0x6A] = .error .truncated := by decide
theorem test_encode_bytes : encode (.drw 1 2 5) = [0xD1, 0x25] := by decide
theorem test_decodeTableWord : decodeTableWord 16 0xF255 = some (.ldMemVx 2) ∧ decodeTableWord 16 0 = none := by decide

/-! Control transfer (95 section 2.1). -/

theorem test_T1 : (cycleOn 0x1ABC z).map (·.pc) = some 0x0ABC := by decide
theorem test_T2 : (cycleOn 0x1FFF { z with pc := 0x0FFF }).map (·.pc) = some 0x0FFF := by decide
theorem test_T3 : (cycleOn 0x2ABC { z with pc := 0x0300, sp := 15 }).map (fun t => (t.stack.getD 15 0, t.sp, t.pc)) =
    some (0x0302, 16, 0x0ABC) := by decide
theorem test_T4 : (cycleOn 0x2ABC { z with pc := 0x0300, sp := 16 }).map
    (fun t => (t.fault, t.pc, t.sp, t.stack == z.stack)) = some (.stackOverflow, 0x0302, 16, true) := by decide
theorem test_T5 : (cycleOn 0x00EE { z with sp := 3, stack := (z.stack.set 1 0x0300).set 2 0x0456 }).map
    (fun t => (t.sp, t.pc, t.stack.getD 2 0)) = some (2, 0x0456, 0x0456) := by decide
theorem test_T6 : (cycleOn 0x00EE z).map (fun t => (t.fault, t.pc, t.sp)) = some (.stackUnderflow, 0x0202, 0) := by decide
theorem test_T7 : (cycleOn 0xBFFF (regs [(0, 0xFF)] z)).map (·.pc) = some 0x10FE := by decide
theorem test_T8 : (cycleOn 0xB300 (regs [(0, 0x04), (3, 0x99)] z)).map (·.pc) = some 0x0304 := by decide
theorem test_T9 : (cycleOn 0x3100 { z with pc := 0x0208 }).map (·.pc) = some 0x020C := by decide
theorem test_T11 : (cycleOn 0x3FFF { regs [(15, 0xFF)] z with pc := 0x0201 }).map (·.pc) = some 0x0205 := by decide
theorem test_T12 : (cycleOn 0x4211 { regs [(2, 0x10)] z with pc := 0x0300 }).map (·.pc) = some 0x0304 := by decide
theorem test_T13 : (cycleOn 0x4211 { regs [(2, 0x11)] z with pc := 0x0300 }).map (·.pc) = some 0x0302 := by decide
theorem test_T14 : (cycleOn 0x5120 (regs [(1, 7), (2, 7)] z)).map (·.pc) = some 0x0204 := by decide
theorem test_T15 : (cycleOn 0x5120 (regs [(1, 7), (2, 8)] z)).map (·.pc) = some 0x0202 := by decide
theorem test_T17 : (cycleOn 0x9120 (regs [(1, 7), (2, 8)] z)).map (·.pc) = some 0x0204 := by decide
theorem test_T18 : (cycleOn 0x9120 (regs [(1, 7), (2, 7)] z)).map (·.pc) = some 0x0202 := by decide
theorem test_T20 : (cycleOn 0x6A12 { z with pc := 0x0FFF }).map (fun t => (readV t 10, t.pc)) = some (0x12, 0x1001) := by
  decide

/-- 95 section 2.2: an unrecognised word changes PC alone. -/
theorem test_unrecognised : (cycleOn 0x8128 (regs [(1, 1), (2, 2)] z)).map
    (fun t => ([1, 2, 15].map (readV t), t.i, t.fault, t.pc)) = some ([1, 2, 0], 0, .none, 0x0202) := by decide

/-! Loads, ALU, random (95 section 2.3). -/

theorem test_A1 : (cycleOn 0x6105 z).map (readV · 1) = some 0x05 := by decide
theorem test_A4 : (cycleOn 0x71FF (regs [(15, 0x55)] z)).map (fun t => (readV t 1, readV t 15)) = some (0xFF, 0x55) := by
  decide
theorem test_A5 : (cycleOn 0x7F01 (regs [(15, 0xFF)] z)).map (readV · 15) = some 0x00 := by decide
theorem test_A6 : (cycleOn 0x8120 (regs [(2, 0x3C)] z)).map (readV · 1) = some 0x3C := by decide
theorem test_A7 : (cycleOn 0x8121 (regs [(1, 0xF0), (2, 0x0F), (15, 1)] z)).map (fun t => (readV t 1, readV t 15)) =
    some (0xFF, 1) := by decide
theorem test_A8 : (cycleOn 0x8122 (regs [(1, 0xF0), (2, 0x3C)] z)).map (readV · 1) = some 0x30 := by decide
theorem test_A9 : (cycleOn 0x8123 (regs [(1, 0xF0), (2, 0x3C)] z)).map (readV · 1) = some 0xCC := by decide
theorem test_S1 : (cycleOn 0x8124 (regs [(1, 0xFF), (2, 0x01)] z)).map (fun t => (readV t 1, readV t 15)) =
    some (0x00, 1) := by decide
theorem test_A15 : (cycleOn 0x8F14 (regs [(15, 1), (1, 2)] z)).map (readV · 15) = some 0 := by decide
theorem test_S2 : (cycleOn 0x8125 (regs [(1, 0x05), (2, 0x0A), (15, 1)] z)).map (fun t => (readV t 1, readV t 15)) =
    some (0xFB, 0) := by decide
theorem test_A22 : (cycleOn 0x8F15 (regs [(15, 2), (1, 5)] z)).map (readV · 15) = some 0xFD := by decide
theorem test_A25 : (cycleOn 0x8126 (regs [(1, 0xFE), (2, 1)] z)).map (fun t => (readV t 1, readV t 15, readV t 2)) =
    some (0x7F, 0, 1) := by decide
theorem test_A27 : (cycleOn 0x8F16 (regs [(15, 5)] z)).map (readV · 15) = some 2 := by decide
theorem test_A29 : (cycleOn 0x8127 (regs [(1, 0x0A), (2, 0x05)] z)).map (fun t => (readV t 1, readV t 15)) =
    some (0xFB, 0) := by decide
theorem test_A32 : (cycleOn 0x81F7 (regs [(1, 3), (15, 5)] z)).map (fun t => (readV t 1, readV t 15)) =
    some (2, 1) := by decide
theorem test_A34 : (cycleOn 0x812E (regs [(1, 0x7F), (2, 0xFF)] z)).map (fun t => (readV t 1, readV t 15, readV t 2)) =
    some (0xFE, 0, 0xFF) := by decide
theorem test_A36 : (cycleOn 0x8F1E (regs [(15, 0x81)] z)).map (readV · 15) = some 2 := by decide
theorem test_A37 : (cycleOn 0xC30F z 0 0xA7).map (readV · 3) = some 0x07 := by decide

/-! The address register and memory (95 section 2.4). -/

theorem test_M1 : (cycleOn 0xA300 { z with i := 0xFFFF }).map (·.i) = some 0x0300 := by decide
theorem test_M3 : (cycleOn 0xF21E { regs [(2, 2)] z with i := 0x0FFF }).map (fun t => (t.i, readV t 15)) =
    some (0x1001, 0) := by decide
theorem test_M4 : (cycleOn 0xF21E { regs [(2, 2)] z with i := 0xFFFF }).map (·.i) = some 0x0001 := by decide
theorem test_M5 : (cycleOn 0xF029 (regs [(0, 0x0A)] z)).map (·.i) = some 0x0032 := by decide
theorem test_M8 : (cycleOn 0xF029 (regs [(0, 0xFF)] z)).map (·.i) = some 0x04FB := by decide
theorem test_M9 : (cycleOn 0xF333 { regs [(3, 0x9C)] z with i := 0x0300 }).map
    (fun t => ([0x300, 0x301, 0x302].map (memRead t), t.i)) = some ([1, 5, 6], 0x0300) := by decide
theorem test_M12 : (cycleOn 0xF333 { regs [(3, 0xFF)] z with i := 0x0FFE }).map
    (fun t => [0xFFE, 0xFFF, 0x000, 0x001].map (memRead t)) = some [2, 5, 5, 0x90] := by decide
theorem test_M13 : (cycleOn 0xF255 { regs [(0, 0xAA), (1, 0xBB), (2, 0xCC)] z with i := 0x0FFF }).map
    (fun t => ([0xFFF, 0x000, 0x001, 0x002].map (memRead t), t.i)) = some ([0xAA, 0xBB, 0xCC, 0x90], 0x0FFF) := by decide
theorem test_M14 : (cycleOn 0xF055 { regs [(0, 0x77)] z with i := 0x1001 }).map (fun t => (memRead t 1, t.i)) =
    some (0x77, 0x1001) := by decide
theorem test_M15 : (cycleOn 0xF265 (bytes 0xFFF [0x11] { z with i := 0x0FFF })).map
    (fun t => (readV t 0, readV t 1, readV t 2)) = some (0x11, 0xF0, 0x90) := by decide
theorem test_M16 : (cycleOn 0xFF65 z).map (fun t => t.v.toList) = some
    [0xF0, 0x90, 0x90, 0x90, 0xF0, 0x20, 0x60, 0x20, 0x20, 0x70, 0xF0, 0x10, 0xF0, 0x80, 0xF0, 0xF0] := by decide

/-! Display (95 section 2.5). -/

theorem test_S4 : (cycleOn 0x00E0 { regs [(15, 1)] z with fb := setPixel (setPixel z.fb 3 4 true) 63 31 true }).map
    (fun t => (t.fb == blankDisplay, t.dirty, readV t 15)) = some (true, true, 1) := by decide
/-- Clipping at the right edge with and without a collision, and at the bottom edge. -/
theorem test_S5_G1_G2 :
    (cycleOn 0xD011 { bytes 0x300 [0xFF] (regs [(0, 60)] z) with i := 0x300 }).map
      (fun t => ([59, 60, 61, 62, 63, 0, 1, 2, 3].map (pixel t.fb · 0), pixel t.fb 0 1, readV t 15, t.dirty)) =
      some ([false, true, true, true, true, false, false, false, false], false, 0, true) ∧
    (cycleOn 0xD011 { bytes 0x300 [0xFF] (regs [(0, 60)] z) with i := 0x300, fb := setPixel z.fb 61 0 true }).map
      (fun t => ([60, 61, 62, 63].map (pixel t.fb · 0), readV t 15)) = some ([true, false, true, true], 1) ∧
    (cycleOn 0xD013 { bytes 0x300 [0x80, 0x80, 0x80] (regs [(1, 30)] z) with i := 0x300 }).map
      (fun t => ([30, 31, 0].map (pixel t.fb 0 ·), readV t 15)) = some ([true, true, false], 0) := by decide
/-- No rows; and VF as the origin's register. -/
theorem test_G4_G6 :
    (cycleOn 0xD010 (regs [(0, 5), (1, 5), (15, 7)] z)).map (fun t => (t.fb == blankDisplay, readV t 15, t.dirty)) =
      some (true, 0, true) ∧
    (cycleOn 0xDF11 { bytes 0x300 [0xC0] (regs [(15, 10), (1, 2)] z) with i := 0x300 }).map
      (fun t => ([9, 10, 11, 12, 16, 17].map (pixel t.fb · 2), readV t 15)) =
      some ([false, true, true, false, false, false], 0) := by decide

/-! Timers and keys (95 section 2.6). -/

theorem test_K1 : (cycleOn 0xF015 (regs [(0, 3)] z)).map (·.dt) = some 3 := by decide
theorem test_K2 : (cycleOn 0xF418 (regs [(4, 0x1E)] z)).map (·.st) = some 0x1E := by decide
theorem test_K3 : (cycleOn 0xF207 { z with dt := 1 }).map (fun t => (readV t 2, t.dt)) = some (1, 1) := by decide
theorem test_K6 : (stepOn { z with fault := .stackOverflow, dt := 5, inbox := [.tick] }).map
    (fun t => (t.dt, t.st, t.fault)) = some (4, 0, .stackOverflow) := by decide
theorem test_K7 : (cycleOn 0xE19E (regs [(1, 3)] z) 0x0028).map (·.pc) = some 0x0204 := by decide
theorem test_K10 : (cycleOn 0xE19E (regs [(1, 0x1F)] z) 0xFFFF).map (·.pc) = some 0x0202 := by decide
theorem test_K12 : (cycleOn 0xE1A1 (regs [(1, 5)] z) 0x0028).map (·.pc) = some 0x0202 := by decide
theorem test_K13 : (cycleOn 0xE1A1 (regs [(1, 0x1F)] z) 0xFFFF).map (·.pc) = some 0x0204 := by decide
theorem test_K14 : (cycleOn 0xF50A (regs [(5, 9)] z)).map (fun t => (t.pc, readV t 5)) = some (0x0200, 9) := by decide
theorem test_K16 : (cycleOn 0xF50A z 0x8000).map (fun t => (t.pc, readV t 5)) = some (0x0202, 0x0F) := by decide
theorem test_K19 : (stepOn { z with fault := .stackUnderflow, pc := 0x0202, inbox := [.cycle 0xFFFF 0xFF] }).map
    (fun t => (t.pc, t.fault, t.keys)) = some (0x0202, .stackUnderflow, 0) := by decide
theorem test_K20 : (stepOn { z with dirty := true, inbox := [.renderAck] }).map (·.dirty) = some false := by decide

/-! The host's events (R270, R276, R45) and the diagnostics (R240). -/

theorem test_load : (stepOn { z with inbox := [.load 0x200 0x12] }).map (memRead · 0x200) = some 0x12 := by decide
theorem test_load_during_run : stepOn { z with inbox := [.load 0x200 0x12], running := true } = none := by decide
theorem test_reset_event : (stepOn { bytes 0x200 [1] z with fault := .stackOverflow, pc := 7, inbox := [.reset] }).map
    (fun t => (t.pc, t.fault, t.mem)) = some (0x0200, .none, []) := by decide
theorem test_edge_order :
    ClockEdge.events ⟨false, some (0x200, 1), true, some (0, 0), true⟩ =
      [.load 0x200 1, .renderAck, .cycle 0 0, .tick] := by decide
theorem test_diag_unk : diagUnk z = true ∧ diagOob z = false := by decide
theorem test_diag_oob : diagOob (placeWord 0xF055 { z with i := 0x1001 }) = true := by decide
/-- 95 T2: the fetch at 0xFFF presents 0x1000. -/
theorem test_diag_oob_fetch : diagOob { z with pc := 0x0FFF } = true := by decide

/-! A placed word runs in the very next step after reset, with free samples (log 2). -/

theorem test_withFetchWord : (stepOn (z.withFetchWord 16 0x6A12)).map (fun t => (readV t 10, t.pc)) =
    some (0x12, 0x0202) := by decide
theorem test_withFetchWord_key_wait : (stepOn (z.withFetchWord 16 0xF50A)).isSome = true := by decide

/-! Witnesses: for each obligation with hypotheses, states and operands that meet all of them, with the values where its
clauses meet. -/

/-- A full stack, an empty one, and the two halted states they lead to. -/
def full : State := { z with sp := 16 }
def overflowed : State := { full with fault := .stackOverflow, running := true }
def underflowed : State := { z with fault := .stackUnderflow, running := true }

theorem test_witness_EncodeUndoesDecode : decodeWord 0xDA7C = .ok (.drw 0xA 0x7 0xC) := by decide
theorem test_witness_DecoderFollowsTheOpcodeMap :
    ∃ r ∈ opcodeMap, r.covers 0xDA7C = true ∧ rowOf (.drw 0xA 0x7 0xC) = r :=
  ⟨rowOf (.drw 0xA 0x7 0xC), by decide, by decide, rfl⟩
theorem test_witness_UnrecognisedWordsAreNoOps :
    z.fault = .none ∧ ∃ e, decodeWord (fetchWord z) = .error e :=
  ⟨rfl, .family0, by decide⟩
theorem test_witness_CycleEvent_ok :
    let s := { placeWord 0x6A12 z with inbox := [.cycle 1 2] }
    s.inbox = [.cycle 1 2] ∧ s.fault = .none ∧ decodeWord (memRead s s.pc ++ memRead s (s.pc + 1)) = .ok (.ldByte 0xA 0x12) := by
  decide
theorem test_witness_CycleEvent_error :
    let s := { z with inbox := [.cycle 1 2], pc := 0xFFFF }
    s.fault = .none ∧ decodeWord (memRead s s.pc ++ memRead s (s.pc + 1)) = .error .family0 := by decide
theorem test_witness_CycleEvent_halted :
    let s := { overflowed with inbox := [.cycle 1 2] }
    s.inbox = [.cycle 1 2] ∧ s.fault ≠ .none := by decide
theorem test_witness_Step_ok :
    let s := placeWord 0x6A12 z
    s.inbox = [] ∧ s.fault = .none ∧ decodeWord (memRead s s.pc ++ memRead s (s.pc + 1)) = .ok (.ldByte 0xA 0x12) := by
  decide
theorem test_witness_Step_error :
    z.inbox = [] ∧ z.fault = .none ∧ decodeWord (memRead z z.pc ++ memRead z (z.pc + 1)) = .error .family0 := by decide
theorem test_witness_Step_halted : overflowed.inbox = [] ∧ overflowed.fault ≠ .none := by decide
theorem test_witness_PlacedWordRunsNext : z.memWf = true := by decide
theorem test_witness_SkipPassesOverOneWord_taken :
    let s := placeWord 0x3000 { z with pc := 0x0FFE }
    s.fault = .none ∧ decodeWord (fetchWord s) = .ok (.seByte 0 0) ∧
      skipCondition (.seByte 0 0) (afterFetch 0 0 s) = some true := by decide
theorem test_witness_SkipPassesOverOneWord_not_taken :
    let s := placeWord 0xE0A1 z
    s.fault = .none ∧ decodeWord (fetchWord s) = .ok (.sknp 0) ∧
      skipCondition (.sknp 0) (afterFetch 1 0 s) = some false := by decide
/-- For ReturnUndoesCall as well. -/
theorem test_witness_CallPushes : ∀ d ∈ [0, 15],
    z.stack.length = z.config.stackDepth ∧ { z with sp := d }.sp < z.config.stackDepth := by decide
theorem test_witness_ReturnPops : ∀ d ∈ [1, 16],
    z.stack.length = z.config.stackDepth ∧ 0 < { z with sp := d }.sp ∧ { z with sp := d }.sp ≤ z.config.stackDepth := by
  decide
theorem test_witness_FatalConditions : full.sp = full.config.stackDepth ∧ z.sp = 0 := by decide
theorem test_witness_OnlyCallOverflows_overflow :
    full.fault = .none ∧ full.sp = full.config.stackDepth ∧
      exec (.call 0xABC) full = .next { full with fault := .stackOverflow } := ⟨rfl, rfl, rfl⟩
theorem test_witness_OnlyCallOverflows_underflow :
    z.fault = .none ∧ z.sp = 0 ∧ exec .ret z = .next { z with fault := .stackUnderflow } := ⟨rfl, rfl, rfl⟩
theorem test_witness_OnlyCallOverflows_neither : z.fault = .none ∧ exec (.call 0xABC) z = .next
    { z with stack := z.stack.set 0 0x200, sp := 1, pc := 0xABC } := ⟨rfl, rfl⟩
theorem test_witness_FaultIsSticky_tick :
    let s := { overflowed with inbox := [.tick] }
    s.fault ≠ .none ∧ (∃ t, step s = .next t) ∧ s.inbox.head? ≠ some .reset := ⟨by decide, ⟨_, rfl⟩, by decide⟩
theorem test_witness_FaultIsSticky_cycle :
    let s := { underflowed with inbox := [.cycle 1 2] }
    s.fault ≠ .none ∧ (∃ t, step s = .next t) ∧ s.inbox = [.cycle 1 2] := ⟨by decide, ⟨_, rfl⟩, rfl⟩
theorem test_witness_FaultIsSticky_empty :
    overflowed.fault ≠ .none ∧ step overflowed = .next overflowed ∧ overflowed.inbox = [] := ⟨by decide, rfl, rfl⟩
theorem test_witness_FaultIsSticky_reset :
    let s := { overflowed with inbox := [.reset] }
    s.fault ≠ .none ∧ (∃ t, step s = .next t) ∧ s.inbox = [.reset] := ⟨by decide, ⟨_, rfl⟩, rfl⟩
theorem test_witness_OnlyThreeInstructionsWriteI : exec (.ldF 0xF) z = .next { z with i := 0 } := rfl
theorem test_witness_Bcd_and_Store : ({ z with i := 0x0FFF } : State).memWf = true := by decide
theorem test_witness_LoadRestores :
    let s := { z with i := 0x0FFF }
    s.memWf = true ∧ ∃ t, exec (.ldMemVx 0xF) s = .next t ∧
      (regs [(0, 9)] t).mem = t.mem ∧ (regs [(0, 9)] t).i = t.i ∧ (regs [(0, 9)] t).config = t.config :=
  ⟨by decide, _, rfl, rfl, rfl, rfl⟩
theorem test_witness_OnlyPresentedBytesChange :
    (∃ t, exec (.ldMemVx 2) z = .next t) ∧ effective 3 ∉ (dataAddrs (.ldMemVx 2) z).map effective :=
  ⟨⟨_, rfl⟩, by decide⟩
theorem test_witness_FetchSeesStores :
    let s := { z with i := 0x0FFF, pc := 0x1FFF }
    s.memWf = true ∧ (∃ t, exec (.ldMemVx 1) s = .next t) ∧ (1 : Reg).val = (0 : Reg).val + 1 ∧ (1 : Reg) ≤ 1 ∧
      effective s.pc = effective (ea s (0 : Reg).val) := ⟨by decide, ⟨_, rfl⟩, rfl, by decide, by decide⟩
/-- A sprite row at the right and bottom edges: the cell at the corner is covered, and was off or on before. -/
theorem test_witness_Draw_covers : ∀ b ∈ [false, true],
    let s := { regs [(0, 63), (1, 31)] z with fb := setPixel z.fb 63 31 b }
    spriteCovers s (readV s 0) (readV s 1) 1 63 31 = true ∧ pixel s.fb 63 31 = b := by decide
theorem test_witness_Draw_covers_nothing : ∀ x ∈ List.range 64,
    spriteCovers z (readV z 0) (readV z 1) 0 x 0 = false := by decide
theorem test_witness_DrawingTwice :
    let s := regs [(0, 63), (1, 31)] z
    ∃ t u, exec (.drw 0 1 1) s = .next t ∧ exec (.drw 0 1 1) t = .next u ∧
      (readV t 0).toNat % 64 = (readV s 0).toNat % 64 ∧ (readV t 1).toNat % 32 = (readV s 1).toNat % 32 :=
  ⟨_, _, rfl, rfl, by decide, by decide⟩
theorem test_witness_OnlyDrawingSetsDirty :
    (∃ t, exec .cls z = .next t) ∧ (∃ t, exec (.drw 0 1 0) z = .next t) ∧ exec (.jp 0) z = .next { z with pc := 0 } :=
  ⟨⟨_, rfl⟩, ⟨_, rfl⟩, rfl⟩
theorem test_witness_Tick : ({ z with inbox := [.tick] } : State).inbox = .tick :: [] := rfl
theorem test_witness_OnlyTimerMoves : exec (.ldDtVx 0) z = .next { z with dt := 0 } ∧
    exec (.ldStVx 0) z = .next { z with st := 0 } := ⟨rfl, rfl⟩
theorem test_witness_KeySkips_in_range : (readV (regs [(1, 15)] z) 1).toNat ≤ 15 := by decide
theorem test_witness_KeySkips_above : ∀ k ∈ [KeyOor.notPressed, .lowNibble],
    let s := regs [(1, 16)] { z with config := { z.config with keyOor := k } }
    15 < (readV s 1).toNat ∧ s.config.keyOor = k := by decide
theorem test_witness_KeyWait : z.keys = 0 ∧ ({ z with keys := 0x8000 } : State).keys ≠ 0 := by decide
theorem test_witness_Waiting : WaitingForKey 0 (placeWord 0xF50A z) := ⟨rfl, ⟨5, by decide⟩, rfl⟩
theorem test_witness_VFChanges : ∃ t, exec (.ldByte VF 1) z = .next t ∧ readV t VF ≠ readV z VF :=
  ⟨_, rfl, by decide⟩
theorem test_witness_Samples : exec (.jp 0) z = .next { z with pc := 0 } := rfl
theorem test_witness_TopAddressBits :
    LooksSame { z with sp := 1 } { z with sp := 1, i := 0xF000, pc := 0xF200, stack := z.stack.set 0 0xF000 } where
  v := rfl
  i := rfl
  pc := rfl
  sp := rfl
  slots := rfl
  stack := fun k => by
    cases k <;> rfl
  mem := rfl
  fb := rfl
  dt := rfl
  st := rfl
  dirty := rfl
  fault := rfl
  keys := rfl
  rnd := rfl
  config := rfl
  inbox := rfl
  draws := rfl
  running := rfl
theorem test_witness_TopAddressBits_fault :
    step { z with inbox := [.load 0 0], running := true } = .fault .loadDuringRun := rfl
theorem test_witness_Parked_lowest : Parked (placeWord 0x1000 { z with pc := 0 }) := ⟨rfl, by decide, by decide⟩
theorem test_witness_Parked_highest : Parked (placeWord 0x1FFF { z with pc := 0x0FFF }) := ⟨rfl, by decide, by decide⟩
theorem test_witness_ResetLeaves :
    effective 0x004F < 80 ∧ 80 ≤ effective 0x0050 ∧ ∀ d ∈ [12, 16],
      ({ State.resetWith { defaultConfig with stackDepth := d } with inbox := [.reset], fault := .stackOverflow } :
        State).inbox = [.reset] := by decide
theorem test_witness_RenderAck : ({ z with inbox := [.renderAck] } : State).inbox = .renderAck :: [] := rfl
theorem test_witness_Load : ∀ r ∈ [false, true],
    let s := { z with inbox := [.load 0xFFF 1], running := r }
    s.memWf = true ∧ s.inbox = [.load 0xFFF 1] ∧ s.running = r := by decide
theorem test_witness_Loader : ∀ d ∈ [12, 16], ({ defaultConfig with stackDepth := d } : Config).wf = true ∧
    romFits [] = true ∧ romFits [0x12, 0x00] = true := by decide
theorem test_witness_EdgeOrders :
    (ClockEdge.mk true none false none false).rst = true ∧ (ClockEdge.mk false none false none false).rst = false ∧
      (ClockEdge.mk false (some (0x200, 1)) true none true).rst = false ∧
      (ClockEdge.mk false (some (0x200, 1)) true (some (2, 3)) true).rst = false := ⟨rfl, rfl, rfl, rfl⟩
theorem test_witness_ResetMeetsTheInvariant : ∀ d ∈ [12, 16], ({ defaultConfig with stackDepth := d } : Config).wf = true := by
  decide
theorem test_witness_StepKeepsTheInvariant :
    ({ overflowed with inbox := [.tick] } : State).Inv ∧ step { overflowed with inbox := [.tick] } = .next overflowed :=
  ⟨⟨by decide, by decide, by decide, by decide, fun _ => rfl, fun h => by (cases h), fun _ => rfl⟩, rfl⟩

end Sys2Proof.Tests
end

section
/-! The decoder against the opcode map (spec/30_encoding.md R95, R96). What decodes is re-encoded as the same word, and an
instruction's word matches its row, so a decoded word matches the row. A row's mask keeps the fields that select the
instruction, so a word the row covers has the row's selecting fields and decodes to its instruction. The rows are then
disjoint because the decoder gives a word one instruction. -/

namespace Sys2Proof

/-! A word rebuilt from its fields (R91, R92), some of which are known. -/

theorem wordNNN_of_fields {w : Opcode} {t : BitVec 4} {nnn : Addr12} (hT : (fieldT w).val = t.toNat)
    (hNNN : (fieldNNN w).toNat = nnn.toNat) : wordNNN t nnn = w := by
  have ht : BitVec.ofFin (fieldT w) = t := BitVec.eq_of_toNat_eq hT
  rw [← ht, ← BitVec.eq_of_toNat_eq hNNN, ← word_eq_wordNNN]

theorem wordXNN_of_fields {w : Opcode} {t : BitVec 4} {nn : Byte} (hT : (fieldT w).val = t.toNat)
    (hNN : (fieldNN w).toNat = nn.toNat) : wordXNN t (fieldX w) nn = w := by
  have ht : BitVec.ofFin (fieldT w) = t := BitVec.eq_of_toNat_eq hT
  rw [← ht, ← BitVec.eq_of_toNat_eq hNN, ← word_eq_wordXNN]

theorem wordXYN_of_fields {w : Opcode} {t : BitVec 4} {n : Fin 16} (hT : (fieldT w).val = t.toNat)
    (hN : (fieldN w).val = n.val) : wordXYN t (fieldX w) (fieldY w) n = w := by
  have ht : BitVec.ofFin (fieldT w) = t := BitVec.eq_of_toNat_eq hT
  rw [← ht, ← Fin.ext hN, ← word_eq_wordXYN]

/-! What each family decodes is encoded as the word it came from. -/

theorem encodeWord_of_decode0 {w : Opcode} {i : Instr} (hT : (fieldT w).val = 0x0) (h : decode0 w = .ok i) :
    encodeWord i = w := by
  unfold decode0 at h
  split at h <;> cases h
  all_goals exact wordNNN_of_fields hT ‹_›

theorem encodeWord_of_decode5 {w : Opcode} {i : Instr} (hT : (fieldT w).val = 0x5) (h : decode5 w = .ok i) :
    encodeWord i = w := by
  unfold decode5 at h
  split at h <;> cases h
  exact wordXYN_of_fields hT ‹_›

theorem encodeWord_of_decode8 {w : Opcode} {i : Instr} (hT : (fieldT w).val = 0x8) (h : decode8 w = .ok i) :
    encodeWord i = w := by
  unfold decode8 at h
  split at h <;> cases h
  all_goals exact wordXYN_of_fields hT ‹_›

theorem encodeWord_of_decode9 {w : Opcode} {i : Instr} (hT : (fieldT w).val = 0x9) (h : decode9 w = .ok i) :
    encodeWord i = w := by
  unfold decode9 at h
  split at h <;> cases h
  exact wordXYN_of_fields hT ‹_›

theorem encodeWord_of_decodeE {w : Opcode} {i : Instr} (hT : (fieldT w).val = 0xE) (h : decodeE w = .ok i) :
    encodeWord i = w := by
  unfold decodeE at h
  split at h <;> cases h
  all_goals exact wordXNN_of_fields hT ‹_›

theorem encodeWord_of_decodeF {w : Opcode} {i : Instr} (hT : (fieldT w).val = 0xF) (h : decodeF w = .ok i) :
    encodeWord i = w := by
  unfold decodeF at h
  split at h <;> cases h
  all_goals exact wordXNN_of_fields hT ‹_›

/-- The first level of R95: the families with a second level by their lemmas, each other one by its format. The last
arm is family F, a nibble being at most 15. -/
theorem encodeWord_of_decodeWord {w : Opcode} {i : Instr} (h : decodeWord w = .ok i) : encodeWord i = w := by
  unfold decodeWord at h
  split at h
  case h_1 hT => exact encodeWord_of_decode0 hT h
  case h_6 hT => exact encodeWord_of_decode5 hT h
  case h_9 hT => exact encodeWord_of_decode8 hT h
  case h_10 hT => exact encodeWord_of_decode9 hT h
  case h_15 hT => exact encodeWord_of_decodeE hT h
  case h_16 =>
    have hlt := (fieldT w).isLt
    have hT : (fieldT w).val = 0xF := by grind
    exact encodeWord_of_decodeF hT h
  case h_2 hT | h_3 hT | h_11 hT | h_12 hT => cases h; exact wordNNN_of_fields hT rfl
  case h_4 hT | h_5 hT | h_7 hT | h_8 hT | h_13 hT => cases h; exact wordXNN_of_fields hT rfl
  case h_14 hT => cases h; exact wordXYN_of_fields hT rfl

/-! A decoded word matches its instruction's row. -/

theorem rowOf_covers_encodeWord : ∀ i : Instr, (rowOf i).covers (encodeWord i) = true
  | .cls => Laws.FitsRow.cls
  | .ret => Laws.FitsRow.ret
  | .jp nnn => Laws.FitsRow.jp nnn
  | .call nnn => Laws.FitsRow.call nnn
  | .seByte x nn => Laws.FitsRow.seByte x nn
  | .sneByte x nn => Laws.FitsRow.sneByte x nn
  | .seReg x y => Laws.FitsRow.seReg x y
  | .ldByte x nn => Laws.FitsRow.ldByte x nn
  | .addByte x nn => Laws.FitsRow.addByte x nn
  | .ldReg x y => Laws.FitsRow.ldReg x y
  | .orReg x y => Laws.FitsRow.orReg x y
  | .andReg x y => Laws.FitsRow.andReg x y
  | .xorReg x y => Laws.FitsRow.xorReg x y
  | .addReg x y => Laws.FitsRow.addReg x y
  | .subReg x y => Laws.FitsRow.subReg x y
  | .shr x y => Laws.FitsRow.shr x y
  | .subn x y => Laws.FitsRow.subn x y
  | .shl x y => Laws.FitsRow.shl x y
  | .sneReg x y => Laws.FitsRow.sneReg x y
  | .ldI nnn => Laws.FitsRow.ldI nnn
  | .jpV0 nnn => Laws.FitsRow.jpV0 nnn
  | .rnd x nn => Laws.FitsRow.rnd x nn
  | .drw x y n => Laws.FitsRow.drw x y n
  | .skp x => Laws.FitsRow.skp x
  | .sknp x => Laws.FitsRow.sknp x
  | .ldVxDt x => Laws.FitsRow.ldVxDt x
  | .ldVxK x => Laws.FitsRow.ldVxK x
  | .ldDtVx x => Laws.FitsRow.ldDtVx x
  | .ldStVx x => Laws.FitsRow.ldStVx x
  | .addI x => Laws.FitsRow.addI x
  | .ldF x => Laws.FitsRow.ldF x
  | .ldB x => Laws.FitsRow.ldB x
  | .ldMemVx x => Laws.FitsRow.ldMemVx x
  | .ldVxMem x => Laws.FitsRow.ldVxMem x

theorem rowOf_covers_of_decodeWord {w : Opcode} {i : Instr} (h : decodeWord w = .ok i) : (rowOf i).covers w = true := by
  rw [← encodeWord_of_decodeWord h]
  exact rowOf_covers_encodeWord i

/-! The rows of the map are the rows of the instructions. -/

/-- One instruction of each row of R96, in its order. -/
def oneOfEach : List Instr :=
  [.cls, .ret, .jp 0, .call 0, .seByte 0 0, .sneByte 0 0, .seReg 0 0, .ldByte 0 0, .addByte 0 0,
   .ldReg 0 0, .orReg 0 0, .andReg 0 0, .xorReg 0 0, .addReg 0 0, .subReg 0 0, .shr 0 0, .subn 0 0, .shl 0 0,
   .sneReg 0 0, .ldI 0, .jpV0 0, .rnd 0 0, .drw 0 0 0, .skp 0, .sknp 0,
   .ldVxDt 0, .ldVxK 0, .ldDtVx 0, .ldStVx 0, .addI 0, .ldF 0, .ldB 0, .ldMemVx 0, .ldVxMem 0]

theorem opcodeMap_eq_map_rowOf : opcodeMap = oneOfEach.map rowOf := rfl

theorem rowOf_mem_opcodeMap (i : Instr) : rowOf i ∈ opcodeMap := by
  cases i <;> simp [rowOf, opcodeMap]

theorem exists_rowOf_of_mem_opcodeMap {r : Row} (hr : r ∈ opcodeMap) : ∃ i, rowOf i = r := by
  rw [opcodeMap_eq_map_rowOf] at hr
  obtain ⟨i, -, hi⟩ := List.mem_map.mp hr
  exact ⟨i, hi⟩

/-! A field that a row's mask keeps whole is, in a word the row covers, the row's own. -/

theorem pattern_of_covers {r : Row} {w : Opcode} (h : r.covers w = true) : r.pattern = w &&& r.mask :=
  (beq_iff_eq.mp h).symm

theorem extractLsb'_of_covers {r : Row} {w : Opcode} (h : r.covers w = true) (start len : Nat)
    (hm : r.mask.extractLsb' start len = BitVec.allOnes len) :
    w.extractLsb' start len = r.pattern.extractLsb' start len := by
  rw [pattern_of_covers h, BitVec.extractLsb'_and, hm, BitVec.and_allOnes]

theorem fieldT_of_covers {r : Row} {w : Opcode} (h : r.covers w = true)
    (hm : r.mask.extractLsb' 12 4 = BitVec.allOnes 4) : fieldT w = fieldT r.pattern :=
  congrArg BitVec.toFin (extractLsb'_of_covers h 12 4 hm)

theorem fieldN_of_covers {r : Row} {w : Opcode} (h : r.covers w = true)
    (hm : r.mask.extractLsb' 0 4 = BitVec.allOnes 4) : fieldN w = fieldN r.pattern :=
  congrArg BitVec.toFin (extractLsb'_of_covers h 0 4 hm)

theorem fieldNN_of_covers {r : Row} {w : Opcode} (h : r.covers w = true)
    (hm : r.mask.extractLsb' 0 8 = BitVec.allOnes 8) : fieldNN w = fieldNN r.pattern :=
  extractLsb'_of_covers h 0 8 hm

theorem fieldNNN_of_covers {r : Row} {w : Opcode} (h : r.covers w = true)
    (hm : r.mask.extractLsb' 0 12 = BitVec.allOnes 12) : fieldNNN w = fieldNNN r.pattern :=
  extractLsb'_of_covers h 0 12 hm

/-! A covered word decodes to an instruction of the row: the mask keeps the fields that R95 dispatches on. -/

theorem exists_decodeWord_of_rowOf_covers {w : Opcode} (i : Instr) (h : (rowOf i).covers w = true) :
    ∃ j, decodeWord w = .ok j ∧ rowOf j = rowOf i := by
  cases i with
  | cls | ret =>
    simp only [rowOf] at h ⊢
    have hT := fieldT_of_covers h (by decide)
    have hNNN := fieldNNN_of_covers h (by decide)
    simp only [decodeWord, hT, decode0, hNNN]
    exact ⟨_, rfl, rfl⟩
  | jp _ | call _ | seByte _ _ | sneByte _ _ | ldByte _ _ | addByte _ _ | ldI _ | jpV0 _ | rnd _ _ | drw _ _ _ =>
    simp only [rowOf] at h ⊢
    have hT := fieldT_of_covers h (by decide)
    simp only [decodeWord, hT]
    exact ⟨_, rfl, rfl⟩
  | seReg _ _ | ldReg _ _ | orReg _ _ | andReg _ _ | xorReg _ _ | addReg _ _ | subReg _ _ | shr _ _ | subn _ _
  | shl _ _ | sneReg _ _ =>
    simp only [rowOf] at h ⊢
    have hT := fieldT_of_covers h (by decide)
    have hN := fieldN_of_covers h (by decide)
    simp only [decodeWord, hT, decode5, decode8, decode9, hN]
    exact ⟨_, rfl, rfl⟩
  | skp _ | sknp _ | ldVxDt _ | ldVxK _ | ldDtVx _ | ldStVx _ | addI _ | ldF _ | ldB _ | ldMemVx _ | ldVxMem _ =>
    simp only [rowOf] at h ⊢
    have hT := fieldT_of_covers h (by decide)
    have hNN := fieldNN_of_covers h (by decide)
    simp only [decodeWord, hT, decodeE, decodeF, hNN]
    exact ⟨_, rfl, rfl⟩

theorem exists_decodeWord_of_covers {w : Opcode} {r : Row} (hr : r ∈ opcodeMap) (h : r.covers w = true) :
    ∃ i, decodeWord w = .ok i ∧ rowOf i = r := by
  obtain ⟨i, rfl⟩ := exists_rowOf_of_mem_opcodeMap hr
  exact exists_decodeWord_of_rowOf_covers i h

/-- Two rows that cover a word are both the row of the one instruction the word decodes to. -/
theorem row_eq_of_covers {w : Opcode} {r r' : Row} (hr : r ∈ opcodeMap) (hr' : r' ∈ opcodeMap)
    (h : r.covers w = true) (h' : r'.covers w = true) : r = r' := by
  obtain ⟨i, hi, rfl⟩ := exists_decodeWord_of_covers hr h
  obtain ⟨j, hj, rfl⟩ := exists_decodeWord_of_covers hr' h'
  obtain rfl : i = j := Except.ok.inj (hi.symm.trans hj)
  rfl

/-- Settles O4: what decodes is covered because the encoder undoes the decoder, what is covered decodes by the fields its
row's mask keeps, and the rows are disjoint because a word has one decoding. -/
theorem decoderFollowsTheOpcodeMap : Obligations.DecoderFollowsTheOpcodeMap :=
  ⟨rfl, fun _ _ _ => row_eq_of_covers, fun _ i h => ⟨rowOf_mem_opcodeMap i, rowOf_covers_of_decodeWord h⟩,
    fun _ _ => exists_decodeWord_of_covers⟩

end Sys2Proof
end

section
/-! Jumps and skips (spec/40_control_flow.md R121, R123 to R128; spec/44_timers_keys.md R214, R215). A jump is `setPc` and
each of the six skips is `skipIf` on its condition; both change PC alone. A skip's condition reads the registers, the key
sample and the parameters, so no byte of memory, the word at A + 2 among them, is part of it. -/

namespace Sys2Proof.Machine

/-! Zero-extension keeps the value (spec/30_encoding.md R93). -/

@[simp] theorem zextAddr_toNat (nnn : Addr12) : (zextAddr nnn).toNat = nnn.toNat :=
  BitVec.toNat_setWidth_of_le (by decide)

@[simp] theorem zextByte_toNat (b : Byte) : (zextByte b).toNat = b.toNat :=
  BitVec.toNat_setWidth_of_le (by decide)

/-! What `setPc` and `skipIf` do to PC, and that they change nothing else. -/

theorem onlyPc_setPc (a : Addr) (s : State) : OnlyPc s (setPc a s) := ⟨rfl, fun _ => rfl⟩

theorem onlyPc_skipIf (c : Bool) (s : State) : OnlyPc s (skipIf c s) := by
  refine ⟨?_, memRead_congr (skipIf_mem c s) (skipIf_config c s)⟩
  rw [skipIf_pc, skipIf_eq]

theorem skipIf_pc_toNat (c : Bool) (s : State) :
    (skipIf c s).pc.toNat = if c then (s.pc.toNat + 2) % 65536 else s.pc.toNat := by
  cases c with
  | true => exact BitVec.toNat_add s.pc 2
  | false => rfl

/-! The jumps. -/

/-- The sum of BNNN is at most 0xFFF + 0xFF, so it does not wrap in 16 bits. -/
theorem indexedTarget_toNat (nnn : Addr12) (b : Byte) : (zextAddr nnn + zextByte b).toNat = nnn.toNat + b.toNat := by
  have hn := nnn.isLt
  have hb := b.isLt
  rw [BitVec.toNat_add, zextAddr_toNat, zextByte_toNat]
  omega

/-- Settles O9: 1NNN is `setPc` of the zero-extended NNN. -/
theorem jumpSetsPc : Obligations.JumpSetsPc :=
  fun s nnn => ⟨setPc (zextAddr nnn) s, rfl, zextAddr_toNat nnn, onlyPc_setPc _ s⟩

/-- Settles O10: BNNN is `setPc` of a sum that does not wrap, and the next fetch reads it modulo 4096. -/
theorem indexedJumpAddsV0 : Obligations.IndexedJumpAddsV0 := by
  intro s nnn
  have hsum := indexedTarget_toNat nnn (readV s 0)
  refine ⟨setPc (zextAddr nnn + zextByte (readV s 0)) s, rfl, hsum, ?_, onlyPc_setPc _ s⟩
  rw [effective_eq_mod, setPc_pc, hsum]

/-! The skips. -/

/-- Each of the six skips is `skipIf` on its condition. -/
theorem exec_of_skipCondition {i : Instr} {s : State} {c : Bool} (h : skipCondition i s = some c) :
    exec i s = .next (skipIf c s) := by
  cases i with
  | seByte | seReg | skp | sknp =>
    cases h
    rfl
  | sneByte | sneReg =>
    cases h
    simp only [exec, execSneByte, execSneReg, bne, beq_eq_decide, ne_eq, decide_not]
  | _ => cases h

/-- A skip whose condition is the proposition `p`, in its execute phase. -/
theorem exec_skip {i : Instr} {s : State} {p : Prop} [Decidable p] (h : skipCondition i s = some (decide p)) :
    ∃ t, exec i s = .next t ∧ OnlyPc s t ∧ t.pc.toNat = if p then (s.pc.toNat + 2) % 65536 else s.pc.toNat := by
  refine ⟨skipIf (decide p) s, exec_of_skipCondition h, onlyPc_skipIf _ s, ?_⟩
  simp only [skipIf_pc_toNat, decide_eq_true_eq]

/-- Settles O11: each register skip's condition is the proposition its rule states. -/
theorem registerSkips : Obligations.RegisterSkips :=
  fun _ _ _ _ => ⟨exec_skip rfl, exec_skip rfl, exec_skip rfl, exec_skip rfl⟩

/-- The condition of a skip reads registers, the key sample and the parameters. -/
theorem skipCondition_congr {s t : State} (hv : t.v = s.v) (hk : t.keys = s.keys) (hc : t.config = s.config)
    (i : Instr) : skipCondition i t = skipCondition i s := by
  cases i <;> simp [skipCondition, pressed, readV_congr hv, hk, hc]

theorem skipCondition_placeWord (w : Opcode) (i : Instr) (s : State) :
    skipCondition i (placeWord w s) = skipCondition i s :=
  skipCondition_congr rfl rfl rfl i

/-- After the fetch a skip changes PC, the samples and the model's own fields alone. -/
theorem sameArch_skipIf_afterFetch (c : Bool) (keys : BitVec 16) (rnd : Byte) (s : State) :
    SameArch { s with pc := (skipIf c (afterFetch keys rnd s)).pc } (skipIf c (afterFetch keys rnd s)) := by
  simp [SameArch]

theorem skipIf_afterFetch_pc_toNat (c : Bool) (keys : BitVec 16) (rnd : Byte) (s : State) :
    (skipIf c (afterFetch keys rnd s)).pc.toNat =
      if c then (s.pc.toNat + 4) % 65536 else (s.pc.toNat + 2) % 65536 := by
  have hfetch : (afterFetch keys rnd s).pc.toNat = (s.pc.toNat + 2) % 65536 := BitVec.toNat_add s.pc 2
  rw [skipIf_pc_toNat, hfetch]
  cases c with
  | true => exact Nat.mod_add_mod (s.pc.toNat + 2) 65536 2
  | false => rfl

/-- Settles O12: the cycle is the fetch and then `skipIf`, and a word placed at A + 2 leaves the condition as it was. -/
theorem skipPassesOverOneWord : Obligations.SkipPassesOverOneWord := by
  intro s keys rnd i c w hfault hdecode hc
  have hrun := (runCycle_ok keys rnd hfault hdecode).trans (exec_of_skipCondition hc)
  have hplaced := exec_of_skipCondition ((skipCondition_placeWord w i _).trans hc)
  refine ⟨_, hrun, sameArch_skipIf_afterFetch c keys rnd s, skipIf_afterFetch_pc_toNat c keys rnd s, _, hplaced, ?_⟩
  rw [skipIf_pc, skipIf_pc]
  rfl

end Sys2Proof.Machine
end

section
/-! Loads and the operations without a flag (spec/41_alu.md R140, R141, R144 to R147). Each is one `writeV` of VX with a
value computed from the state before, so it changes VX alone and its frame is `writeV`'s. -/

namespace Sys2Proof.Machine

/-! What `writeV` leaves unchanged (spec/10_state.md R20). -/

theorem sameRegsBut_writeV (x : Reg) (b : Byte) (s : State) : SameRegsBut (· = x) s (writeV x b s) :=
  fun _ hr => readV_writeV_other b s hr

theorem onlyRegs_writeV (x : Reg) (b : Byte) (s : State) : OnlyRegs s (writeV x b s) :=
  ⟨rfl, memRead_congr (writeV_mem x b s) (writeV_config x b s)⟩

/-- An instruction whose meaning is one write of VX. -/
theorem exec_of_writeV {i : Instr} {s : State} {x : Reg} {b : Byte} (h : exec i s = .next (writeV x b s)) :
    ∃ t, exec i s = .next t ∧ readV t x = b ∧ SameRegsBut (· = x) s t ∧ OnlyRegs s t :=
  ⟨writeV x b s, h, readV_writeV_same x b s, sameRegsBut_writeV x b s, onlyRegs_writeV x b s⟩

/-- Settles O19: 6XNN is one write of VX. -/
theorem loadImmediateWritesVX : Obligations.LoadImmediateWritesVX :=
  fun _ _ _ => exec_of_writeV rfl

/-- Settles O20: 7XNN is one write of VX, and the sum of two bytes is the sum modulo 256. -/
theorem addImmediateWrapsWithoutFlag : Obligations.AddImmediateWrapsWithoutFlag := by
  intro s x nn
  obtain ⟨t, hexec, hx, hframe⟩ := exec_of_writeV (i := .addByte x nn) (s := s) rfl
  refine ⟨t, hexec, ?_, hframe⟩
  rw [hx, BitVec.toNat_add]

/-- Settles O21: 8XY0 is one write of VX. -/
theorem copyWritesVX : Obligations.CopyWritesVX :=
  fun _ _ _ => exec_of_writeV rfl

/-- An instruction whose meaning is one write of VX with a value whose bits are `f`. -/
theorem exec_bits_of_writeV {i : Instr} {s : State} {x : Reg} {b : Byte} {f : Nat → Bool}
    (h : exec i s = .next (writeV x b s)) (hbits : ∀ k, b.getLsbD k = f k) :
    ∃ t, exec i s = .next t ∧ SameRegsBut (· = x) s t ∧ OnlyRegs s t ∧ ∀ k, (readV t x).getLsbD k = f k := by
  obtain ⟨t, hexec, rfl, hregs, honly⟩ := exec_of_writeV h
  exact ⟨t, hexec, hregs, honly, hbits⟩

/-- Settles O22: each is one write of VX with the bitwise operation of the two bytes. -/
theorem logicalOpsActOnEachBit : Obligations.LogicalOpsActOnEachBit :=
  fun _ _ _ => ⟨exec_bits_of_writeV rfl fun _ => BitVec.getLsbD_or, exec_bits_of_writeV rfl fun _ => BitVec.getLsbD_and,
    exec_bits_of_writeV rfl fun _ => BitVec.getLsbD_xor⟩

end Sys2Proof.Machine
end

section
/-! The address register (spec/42_index_memory.md R170). ANNN is one `setI`, so its frame is `setI`'s. -/

namespace Sys2Proof.Machine

theorem onlyI_setI (a : Addr) (s : State) : OnlyI s (setI a s) :=
  ⟨rfl, memRead_congr (setI_mem a s) (setI_config a s)⟩

/-- An instruction whose meaning is one write of I. -/
theorem exec_of_setI {i : Instr} {s : State} {a : Addr} (h : exec i s = .next (setI a s)) :
    ∃ t, exec i s = .next t ∧ t.i = a ∧ OnlyI s t :=
  ⟨setI a s, h, setI_i a s, onlyI_setI a s⟩

/-- Settles O27: ANNN is one write of I, and zero-extension keeps the value of NNN. -/
theorem loadAddressWritesI : Obligations.LoadAddressWritesI := by
  intro s nnn
  obtain ⟨t, hexec, hi, hframe⟩ := exec_of_setI (i := .ldI nnn) (s := s) rfl
  refine ⟨t, hexec, ?_, hframe⟩
  rw [hi, zextAddr_toNat]

end Sys2Proof.Machine
end

section
/-! Clearing the display (spec/43_display.md R190). 00E0 is one `setDisplay` with the blank buffer, so its frame is
`setDisplay`'s. -/

namespace Sys2Proof.Machine

/-- A display write touches no byte of memory (spec/10_state.md R32). -/
theorem sameMemory_setDisplay (fb : Display) (s : State) : SameMemory s (setDisplay fb s) :=
  memRead_congr (setDisplay_mem fb s) (setDisplay_config fb s)

/-- An instruction whose meaning is one write of the display buffer. -/
theorem exec_of_setDisplay {i : Instr} {s : State} {fb : Display} (h : exec i s = .next (setDisplay fb s)) :
    ∃ t, exec i s = .next t ∧ t.fb = fb ∧ t.dirty = true ∧ t = { s with fb := t.fb, dirty := true } ∧ SameMemory s t :=
  ⟨setDisplay fb s, h, setDisplay_fb fb s, setDisplay_dirty fb s, rfl, sameMemory_setDisplay fb s⟩

/-- Settles O36: 00E0 is one write of the display buffer, and every cell of the blank buffer is off. -/
theorem clearTurnsEveryCellOff : Obligations.ClearTurnsEveryCellOff := by
  intro s
  obtain ⟨t, hexec, hfb, hframe⟩ := exec_of_setDisplay (i := .cls) (s := s) (fb := blankDisplay) rfl
  refine ⟨t, hexec, fun x y _ _ => ?_, hframe⟩
  rw [hfb, pixel_blankDisplay]

end Sys2Proof.Machine
end

section
/-! The timer moves (spec/44_timers_keys.md R210 to R212). FX07 is one `writeV` of VX, FX15 one `setDt` and FX18 one
`setSt`, so the frame of each is its writer's. -/

namespace Sys2Proof.Machine

/-! The timers are no part of memory (spec/10_state.md section 1). -/

theorem sameMemory_setDt (b : Byte) (s : State) : SameMemory s (setDt b s) :=
  memRead_congr (setDt_mem b s) (setDt_config b s)

theorem sameMemory_setSt (b : Byte) (s : State) : SameMemory s (setSt b s) :=
  memRead_congr (setSt_mem b s) (setSt_config b s)

/-- An instruction whose meaning is one write of DT. -/
theorem exec_of_setDt {i : Instr} {s : State} {b : Byte} (h : exec i s = .next (setDt b s)) :
    ∃ t, exec i s = .next t ∧ t.dt = b ∧ t = { s with dt := t.dt } ∧ SameMemory s t :=
  ⟨setDt b s, h, setDt_dt b s, rfl, sameMemory_setDt b s⟩

/-- An instruction whose meaning is one write of ST. -/
theorem exec_of_setSt {i : Instr} {s : State} {b : Byte} (h : exec i s = .next (setSt b s)) :
    ∃ t, exec i s = .next t ∧ t.st = b ∧ t = { s with st := t.st } ∧ SameMemory s t :=
  ⟨setSt b s, h, setSt_st b s, rfl, sameMemory_setSt b s⟩

/-- Settles O40: FX07 is one write of VX with DT, and DT is outside what a register write changes. -/
theorem readDelayTimer : Obligations.ReadDelayTimer :=
  fun _ _ => exec_of_writeV rfl

/-- Settles O41: FX15 is one write of DT and FX18 one of ST, each with VX. -/
theorem setTimers : Obligations.SetTimers :=
  fun _ _ => ⟨exec_of_setDt rfl, exec_of_setSt rfl⟩

end Sys2Proof.Machine
end

section
/-! Encoding and decoding (spec/30_encoding.md R92 to R96, R100). The encoder's words have the fields the decoder
dispatches on, so each decodes to its instruction. The words no arm decodes are found family by family. -/

namespace Sys2Proof

/-! The encoder's words decode. -/

theorem decodeWord_encodeWord (i : Instr) : decodeWord (encodeWord i) = .ok i := by
  cases i with
  | cls | ret => rfl
  | jp | call | ldI | jpV0 | seByte | sneByte | ldByte | addByte | rnd | drw => simp [encodeWord, decodeWord]
  | seReg | sneReg => simp [encodeWord, decodeWord, decode5, decode9]
  | ldReg | orReg | andReg | xorReg | addReg | subReg | shr | subn | shl => simp [encodeWord, decodeWord, decode8]
  | skp | sknp => simp [encodeWord, decodeWord, decodeE]
  | ldVxDt | ldVxK | ldDtVx | ldStVx | addI | ldF | ldB | ldMemVx | ldVxMem => simp [encodeWord, decodeWord, decodeF]

/-- The two bytes of a word, whatever follows, decode as the word does. -/
theorem decode_bytes_append (w : Opcode) (rest : List Byte) :
    decode ([hiByte w, loByte w] ++ rest) = (decodeWord w).map (·, rest) := by
  simp only [decode, List.cons_append, List.nil_append, wordOfBytes_hiByte_loByte]

/-! Every operand is legal (R93). -/

theorem instr_wf (i : Instr) : i.wf = true := by
  have hreg (x : Reg) : x.val ≤ 15 := Nat.le_of_lt_succ x.isLt
  have hbyte (nn : Byte) : nn.toNat ≤ 0xFF := Nat.le_of_lt_succ nn.isLt
  have haddr (nnn : Addr12) : nnn.toNat ≤ 0xFFF := Nat.le_of_lt_succ nnn.isLt
  cases i <;> simp [Instr.wf, hreg, hbyte, haddr]

/-- Settles O2: the encoder's fields are the ones the decoder reads, and two bytes in memory are one word. -/
theorem decodeUndoesEncode : Obligations.DecodeUndoesEncode := by
  intro i rest
  refine ⟨instr_wf i, ?_⟩
  rw [encode, decode_bytes_append, decodeWord_encodeWord]
  rfl

/-- Settles O3: each family's decoder keeps every field the encoder writes. -/
theorem encodeUndoesDecode : Obligations.EncodeUndoesDecode :=
  fun _ _ => encodeWord_of_decodeWord

/-- Settles O1: each word is the encoder's word of its instruction. -/
theorem sampleWordsDecode : Obligations.SampleWordsDecode :=
  ⟨decodeWord_encodeWord .cls, decodeWord_encodeWord (.call 0xABC), decodeWord_encodeWord (.seByte 0xA 0x12),
    decodeWord_encodeWord (.shl 0xA 0x7), decodeWord_encodeWord (.drw 0xA 0x7 0xC), decodeWord_encodeWord (.sknp 0x5),
    decodeWord_encodeWord (.ldMemVx 0x3), decodeWord_encodeWord (.ldVxMem 0x3)⟩

/-! The words each second level of R95 rejects, by the field it selects on. -/

/-- A word the decoder gives no instruction. -/
def Rejected (d : Except Reject Instr) : Prop := ∃ e, d = .error e

theorem rejected_error (e : Reject) : Rejected (.error e) := ⟨e, rfl⟩

theorem not_rejected_ok (i : Instr) : ¬Rejected (.ok i) := fun ⟨_, h⟩ => nomatch h

theorem rejected_decode0 (w : Opcode) :
    Rejected (decode0 w) ↔ (fieldNNN w).toNat ≠ 0x0E0 ∧ (fieldNNN w).toNat ≠ 0x0EE := by
  unfold decode0
  split <;> simp_all [rejected_error, not_rejected_ok]

theorem rejected_decode5 (w : Opcode) : Rejected (decode5 w) ↔ (fieldN w).val ≠ 0 := by
  unfold decode5
  split <;> simp_all [rejected_error, not_rejected_ok]

theorem rejected_decode8 (w : Opcode) :
    Rejected (decode8 w) ↔ (fieldN w).val ∈ [0x8, 0x9, 0xA, 0xB, 0xC, 0xD, 0xF] := by
  have := (fieldN w).isLt
  unfold decode8
  split
  case h_10 =>
    simp_all [rejected_error]
    omega
  all_goals simp_all [not_rejected_ok]

theorem rejected_decode9 (w : Opcode) : Rejected (decode9 w) ↔ (fieldN w).val ≠ 0 := by
  unfold decode9
  split <;> simp_all [rejected_error, not_rejected_ok]

theorem rejected_decodeE (w : Opcode) : Rejected (decodeE w) ↔ (fieldNN w).toNat ∉ [0x9E, 0xA1] := by
  unfold decodeE
  split <;> simp_all [rejected_error, not_rejected_ok]

theorem rejected_decodeF (w : Opcode) :
    Rejected (decodeF w) ↔ (fieldNN w).toNat ∉ [0x07, 0x0A, 0x15, 0x18, 0x1E, 0x29, 0x33, 0x55, 0x65] := by
  unfold decodeF
  split <;> simp_all [rejected_error, not_rejected_ok]

/-- The families of R100's table: every other type nibble decodes whatever its operands are. -/
theorem rejected_decodeWord (w : Opcode) :
    Rejected (decodeWord w) ↔
      ((fieldT w).val = 0x0 ∧ Rejected (decode0 w)) ∨ ((fieldT w).val = 0x5 ∧ Rejected (decode5 w)) ∨
      ((fieldT w).val = 0x8 ∧ Rejected (decode8 w)) ∨ ((fieldT w).val = 0x9 ∧ Rejected (decode9 w)) ∨
      ((fieldT w).val = 0xE ∧ Rejected (decodeE w)) ∨ ((fieldT w).val = 0xF ∧ Rejected (decodeF w)) := by
  have := (fieldT w).isLt
  unfold decodeWord
  split
  case h_16 =>
    have hT : (fieldT w).val = 0xF := by grind
    simp [hT]
  all_goals simp [*, not_rejected_ok]

/-- R100's table in the word's digits. -/
theorem rejected_decodeWord_iff (w : Opcode) :
    Rejected (decodeWord w) ↔
      (w.toNat < 0x1000 ∧ w.toNat ≠ 0x00E0 ∧ w.toNat ≠ 0x00EE) ∨
      (w.toNat / 0x1000 = 0x5 ∧ w.toNat % 16 ≠ 0) ∨
      (w.toNat / 0x1000 = 0x8 ∧ w.toNat % 16 ∈ [0x8, 0x9, 0xA, 0xB, 0xC, 0xD, 0xF]) ∨
      (w.toNat / 0x1000 = 0x9 ∧ w.toNat % 16 ≠ 0) ∨
      (w.toNat / 0x1000 = 0xE ∧ w.toNat % 256 ∉ [0x9E, 0xA1]) ∨
      (w.toNat / 0x1000 = 0xF ∧ w.toNat % 256 ∉ [0x07, 0x0A, 0x15, 0x18, 0x1E, 0x29, 0x33, 0x55, 0x65]) := by
  have family0 : (w.toNat / 4096 = 0 ∧ w.toNat % 4096 ≠ 0x0E0 ∧ w.toNat % 4096 ≠ 0x0EE) ↔
      (w.toNat < 0x1000 ∧ w.toNat ≠ 0x00E0 ∧ w.toNat ≠ 0x00EE) := by omega
  rw [rejected_decodeWord, rejected_decode0, rejected_decode5, rejected_decode8, rejected_decode9, rejected_decodeE,
    rejected_decodeF, fieldT_val, fieldN_val, fieldNN_toNat, fieldNNN_toNat, family0]

end Sys2Proof
namespace Sys2Proof.Machine

/-- Fetching changes PC, the samples and the model's own fields alone (spec/20_memory.md R70). -/
theorem sameArch_afterFetch (keys : BitVec 16) (rnd : Byte) (s : State) :
    SameArch { s with pc := s.pc + 2 } (afterFetch keys rnd s) := by
  simp [SameArch]

/-- Settles O5: the rejected words are R100's table, and a cycle on one is the fetch alone. -/
theorem unrecognisedWordsAreNoOps : Obligations.UnrecognisedWordsAreNoOps :=
  ⟨rejected_decodeWord_iff, fun keys rnd s hfault ⟨_, he⟩ =>
    ⟨afterFetch keys rnd s, runCycle_error keys rnd hfault he, sameArch_afterFetch keys rnd s⟩⟩

end Sys2Proof.Machine
end

section
/-! What each instruction may write, said once, and the whole-machine rules that follow from it (spec/10_state.md
sections 3, 4 and 10; spec/60_exceptions.md section 2; spec/70_reset_and_hazards.md section 4). -/

namespace Sys2Proof.Machine

/-- `t` differs from `s` at most in the pieces of state that instruction `i` may write. -/
def FrameOf (i : Instr) (s t : State) : Prop :=
  match i with
  | .cls => t = { s with fb := t.fb, dirty := t.dirty }
  | .drw _ _ _ => t = { s with v := t.v, fb := t.fb, dirty := t.dirty }
  | .ret => t = { s with pc := t.pc, sp := t.sp, fault := t.fault }
  | .call _ => t = { s with pc := t.pc, sp := t.sp, stack := t.stack, fault := t.fault }
  | .jp _ | .jpV0 _ | .seByte _ _ | .sneByte _ _ | .seReg _ _ | .sneReg _ _ | .skp _ | .sknp _ =>
    t = { s with pc := t.pc }
  | .ldI _ | .addI _ | .ldF _ => t = { s with i := t.i }
  | .ldB _ | .ldMemVx _ => t = { s with mem := t.mem }
  | .ldDtVx _ => t = { s with dt := t.dt }
  | .ldStVx _ => t = { s with st := t.st }
  | .ldVxK _ => t = { s with v := t.v, pc := t.pc }
  | .ldByte _ _ | .addByte _ _ | .ldReg _ _ | .orReg _ _ | .andReg _ _ | .xorReg _ _ | .addReg _ _ | .subReg _ _
  | .shr _ _ | .subn _ _ | .shl _ _ | .rnd _ _ | .ldVxDt _ | .ldVxMem _ => t = { s with v := t.v }

theorem frameOf_exec {i : Instr} {s t : State} (h : exec i s = .next t) : FrameOf i s t := by
  cases i with
  | ret | call | ldVxK =>
    cases h
    show ite _ _ _ = _
    split <;> rfl
  | seByte | sneByte | seReg | sneReg | skp | sknp =>
    cases h
    exact (onlyPc_skipIf _ s).1
  | ldB x =>
    cases h
    exact storeDigits_eq s (readV s x) 3
  | ldMemVx x =>
    cases h
    exact storeRegs_eq s (x.val + 1)
  | ldVxMem x =>
    cases h
    exact loadRegs_eq s (x.val + 1)
  | _ =>
    cases h
    rfl

/-- Every meaning ends in a next state (spec/60_exceptions.md R233). -/
theorem exec_total (i : Instr) (s : State) : ∃ t, exec i s = .next t := by
  cases i <;> exact ⟨_, rfl⟩

/-- No instruction touches the parameters, the inputs or the model's own fields (spec/10_state.md R40, R41). -/
theorem exec_leaves_inputs {i : Instr} {s t : State} (h : exec i s = .next t) :
    t.config = s.config ∧ t.keys = s.keys ∧ t.rnd = s.rnd ∧ t.inbox = s.inbox ∧ t.draws = s.draws ∧
      t.running = s.running := by
  have hframe := frameOf_exec h
  cases i <;> (rw [hframe]; exact ⟨rfl, rfl, rfl, rfl, rfl, rfl⟩)

/-- Settles O47: the meanings are total, and the inputs lie outside every frame. -/
theorem everyInstructionLeavesTheInputs : Obligations.EveryInstructionLeavesTheInputs := by
  intro s i
  obtain ⟨t, h⟩ := exec_total i s
  exact ⟨t, h, exec_leaves_inputs h⟩

/-- Settles O43: by the frames, only FX15 may write DT and only FX18 ST. -/
theorem onlyTimerMovesChangeTimers : Obligations.OnlyTimerMovesChangeTimers := by
  intro s t i h
  have hframe := frameOf_exec h
  constructor <;> intro hi
  · cases i with
    | ldDtVx x => exact absurd rfl (hi x)
    | _ => rw [hframe]
  · cases i with
    | ldStVx x => exact absurd rfl (hi x)
    | _ => rw [hframe]

/-- Settles O39: 00E0 and DXYN end in a display write, and by the frames no other instruction has one. -/
theorem onlyDrawingSetsDirty : Obligations.OnlyDrawingSetsDirty := by
  intro s t i h
  constructor
  · rintro (rfl | ⟨x, y, n, rfl⟩) <;> cases h <;> rfl
  · intro hcls hdrw
    have hframe := frameOf_exec h
    cases i with
    | cls => exact absurd rfl hcls
    | drw x y n => exact absurd rfl (hdrw x y n)
    | _ =>
      rw [hframe]
      exact ⟨rfl, rfl⟩

/-! I (spec/10_state.md section 4, spec/42_index_memory.md R171, R172). -/

theorem addIndex_toNat (i : Addr) (vx : Byte) : (addIndex i vx).toNat = (i.toNat + vx.toNat) % 65536 := by
  rw [addIndex, BitVec.toNat_add, zextByte_toNat]

/-- At most 255 × 5, so the product does not wrap. -/
theorem glyphAddr_toNat (vx : Byte) : (glyphAddr vx).toNat = vx.toNat * 5 := by
  have := vx.isLt
  rw [glyphAddr, BitVec.toNat_mul, zextByte_toNat]
  simp
  omega

/-- Settles O28: each is one `setI`, of a sum modulo 65536 and of a product that does not wrap. -/
theorem indexArithmeticWritesI : Obligations.IndexArithmeticWritesI := by
  intro s x
  exact ⟨⟨_, rfl, addIndex_toNat s.i (readV s x), onlyI_setI _ s⟩,
    ⟨_, rfl, glyphAddr_toNat (readV s x), onlyI_setI _ s⟩⟩

/-- Settles O29: the three writers by their sums, and by the frames no other instruction writes I. -/
theorem onlyThreeInstructionsWriteI : Obligations.OnlyThreeInstructionsWriteI := by
  refine ⟨rfl, fun s t i h => ?_⟩
  have hframe := frameOf_exec h
  cases i with
  | ldI nnn =>
    cases h
    exact zextAddr_toNat nnn
  | addI x =>
    cases h
    exact addIndex_toNat s.i (readV s x)
  | ldF x =>
    cases h
    exact glyphAddr_toNat (readV s x)
  | _ => rw [hframe]

/-! The fatal conditions (spec/60_exceptions.md sections 2 and 3). -/

theorem exec_call_full {s : State} (nnn : Addr12) (h : s.sp = s.config.stackDepth) :
    exec (.call nnn) s = .next (raiseFatal .stackOverflow s) :=
  congrArg _ (if_pos h)

theorem exec_call_room {s : State} (nnn : Addr12) (h : s.sp ≠ s.config.stackDepth) :
    exec (.call nnn) s = .next (setPc (zextAddr nnn) (pushPc s)) :=
  congrArg _ (if_neg h)

theorem exec_ret_empty {s : State} (h : s.sp = 0) : exec .ret s = .next (raiseFatal .stackUnderflow s) :=
  congrArg _ (if_pos h)

theorem exec_ret_active {s : State} (h : s.sp ≠ 0) : exec .ret s = .next (popPc s) :=
  congrArg _ (if_neg h)

/-- Settles O16: each fatal condition is `raiseFatal` of its code. -/
theorem fatalConditionsWriteFaultOnly : Obligations.FatalConditionsWriteFaultOnly :=
  fun _ nnn => ⟨exec_call_full nnn, exec_ret_empty, rfl, rfl, rfl⟩

theorem faultBits_eq_one (s : State) : faultBits s = 1 ↔ s.fault = .stackOverflow := by
  unfold faultBits
  split <;> simp [*]

theorem faultBits_eq_two (s : State) : faultBits s = 2 ↔ s.fault = .stackUnderflow := by
  unfold faultBits
  split <;> simp [*]

/-- What an instruction can do to the call stack: a full call and an empty return trap, a call pushes, a return pops, and
every other instruction leaves the slots, SP and FAULT. -/
theorem exec_stack_cases {i : Instr} {s t : State} (h : exec i s = .next t) :
    (∃ nnn, i = .call nnn ∧ s.sp = s.config.stackDepth ∧ t = raiseFatal .stackOverflow s) ∨
    (∃ nnn, i = .call nnn ∧ s.sp ≠ s.config.stackDepth ∧ t = setPc (zextAddr nnn) (pushPc s)) ∨
    (i = .ret ∧ s.sp = 0 ∧ t = raiseFatal .stackUnderflow s) ∨
    (i = .ret ∧ s.sp ≠ 0 ∧ t = popPc s) ∨
    ((∀ nnn, i ≠ .call nnn) ∧ i ≠ .ret ∧ t.stack = s.stack ∧ t.sp = s.sp ∧ t.fault = s.fault) := by
  cases i with
  | call nnn =>
    by_cases hfull : s.sp = s.config.stackDepth
    · rw [exec_call_full nnn hfull] at h
      cases h
      exact .inl ⟨nnn, rfl, hfull, rfl⟩
    · rw [exec_call_room nnn hfull] at h
      cases h
      exact .inr (.inl ⟨nnn, rfl, hfull, rfl⟩)
  | ret =>
    by_cases hempty : s.sp = 0
    · rw [exec_ret_empty hempty] at h
      cases h
      exact .inr (.inr (.inl ⟨rfl, hempty, rfl⟩))
    · rw [exec_ret_active hempty] at h
      cases h
      exact .inr (.inr (.inr (.inl ⟨rfl, hempty, rfl⟩)))
  | _ =>
    have hframe := frameOf_exec h
    refine .inr (.inr (.inr (.inr ⟨nofun, nofun, ?_⟩)))
    rw [hframe]
    exact ⟨rfl, rfl, rfl⟩

/-- Settles O17: a trap is the only way FAULT leaves 0. -/
theorem onlyCallOverflowsOnlyReturnUnderflows : Obligations.OnlyCallOverflowsOnlyReturnUnderflows := by
  intro s t i hfault h
  rw [faultBits_eq_one, faultBits_eq_two]
  obtain ⟨nnn, rfl, hsp, rfl⟩ | ⟨nnn, rfl, hsp, rfl⟩ | ⟨rfl, hsp, rfl⟩ | ⟨rfl, hsp, rfl⟩ | ⟨hcall, hret, -, -, ht⟩ :=
    exec_stack_cases h
  · simp [hsp]
  · simp [hsp, hfault]
  · simp [hsp]
  · simp [hsp, hfault]
  · simp [ht, hfault, hcall, hret]

end Sys2Proof.Machine
end

section
/-! Calls and returns (spec/40_control_flow.md R120, R122), the reset state (spec/10_state.md R50) and the invariant. -/

namespace Sys2Proof.Machine

/-! The slots around a push (spec/10_state.md R29). -/

theorem getD_set_same {l : List Addr} {k : Nat} (a : Addr) (h : k < l.length) : (l.set k a).getD k 0 = a := by
  simp [h]

theorem getD_set_other {l : List Addr} {k j : Nat} (a : Addr) (h : j ≠ k) : (l.set k a).getD j 0 = l.getD j 0 := by
  simp [h.symm]

/-- Settles O13: a call with room is a push and a jump. -/
theorem callPushesTheReturnAddress : Obligations.CallPushesTheReturnAddress := by
  intro s nnn hslots hroom
  refine ⟨_, exec_call_room nnn hroom.ne, zextAddr_toNat nnn, rfl, getD_set_same s.pc (hslots ▸ hroom),
    fun k hk => getD_set_other s.pc hk, List.length_set, rfl, fun _ => rfl⟩

/-- Settles O14: a return with a call active is a pop. -/
theorem returnPopsTheReturnAddress : Obligations.ReturnPopsTheReturnAddress := by
  intro s hslots hactive hdepth
  have hslot : s.sp - 1 < s.stack.length := by omega
  refine ⟨_, exec_ret_active hactive.ne', Nat.sub_add_cancel hactive, ?_, rfl, fun _ => rfl⟩
  simp [hslot]

/-- A pop after a push and a jump gives back all but the slot at SP. -/
theorem popPc_setPc_pushPc {s : State} (a : Addr) (h : s.sp < s.stack.length) :
    popPc (setPc a (pushPc s)) = { s with stack := s.stack.set s.sp s.pc } := by
  have hpop : (s.stack.set s.sp s.pc).getD s.sp 0 = s.pc := getD_set_same s.pc h
  simp only [popPc, setPc, pushPc, Nat.add_sub_cancel, hpop]

/-- Settles O15: a call with room leaves a call active, so the return pops what it pushed. -/
theorem returnUndoesCall : Obligations.ReturnUndoesCall := by
  intro s nnn hslots hroom
  have hret := exec_ret_active (s := setPc (zextAddr nnn) (pushPc s)) (Nat.succ_ne_zero s.sp)
  rw [popPc_setPc_pushPc (zextAddr nnn) (hslots ▸ hroom)] at hret
  exact ⟨_, _, exec_call_room nnn hroom.ne, hret, rfl, List.length_set, fun k hk => getD_set_other s.pc hk⟩

/-! Memory stays canonical. -/

theorem exec_keeps_memWf {i : Instr} {s t : State} (hs : s.memWf = true) (h : exec i s = .next t) : t.memWf = true := by
  cases i with
  | ldB x =>
    cases h
    exact storeDigits_memWf s (readV s x) 3 hs
  | ldMemVx x =>
    cases h
    exact storeRegs_memWf s (x.val + 1) hs
  | _ =>
    rw [frameOf_exec h]
    exact hs

/-! The invariant. -/

theorem inv_resetWith {c : Config} (hc : c.wf = true) : (State.resetWith c).Inv where
  legalCore := hc
  memory := resetWith_memWf c
  slots := List.length_replicate
  depth := Nat.zero_le _
  overflowAtCapacity := nofun
  underflowAtZero := nofun
  faultOnlyInRun := fun h => absurd rfl h

/-- Settles O57: nothing is on the stack, no fatal condition has occurred and memory holds no written byte. -/
theorem resetMeetsTheInvariant : Obligations.ResetMeetsTheInvariant :=
  ⟨inv_resetWith Tests.test_wf_default, fun _ => inv_resetWith⟩

/-- The invariant is about the parameters, memory, the stack, SP, FAULT and the run bit, which may only be set. -/
theorem State.Inv.congr {s t : State} (hs : s.Inv) (hconfig : t.config = s.config) (hmem : t.memWf = true)
    (hstack : t.stack = s.stack) (hsp : t.sp = s.sp) (hfault : t.fault = s.fault)
    (hrun : s.running = true → t.running = true) : t.Inv where
  legalCore := hconfig ▸ hs.legalCore
  memory := hmem
  slots := by rw [hstack, hconfig, hs.slots]
  depth := by rw [hsp, hconfig]; exact hs.depth
  overflowAtCapacity := by rw [hfault, hsp, hconfig]; exact hs.overflowAtCapacity
  underflowAtZero := by rw [hfault, hsp]; exact hs.underflowAtZero
  faultOnlyInRun := by rw [hfault]; exact fun h => hrun (hs.faultOnlyInRun h)

/-- After the fetch the run has begun, so a trap sets FAULT in a run, at the stack depth its code stands for. -/
theorem inv_exec {i : Instr} {s t : State} (hs : s.Inv) (hfault : s.fault = .none) (hrun : s.running = true)
    (h : exec i s = .next t) : t.Inv := by
  have hmem := exec_keeps_memWf hs.memory h
  obtain ⟨hconfig, -, -, -, -, hrunning⟩ := exec_leaves_inputs h
  obtain ⟨_, rfl, hsp, rfl⟩ | ⟨_, rfl, hsp, rfl⟩ | ⟨rfl, hsp, rfl⟩ | ⟨rfl, hsp, rfl⟩ | ⟨-, -, hstack, hsp, ht⟩ :=
    exec_stack_cases h
  · exact { hs with overflowAtCapacity := fun _ => hsp, underflowAtZero := nofun, faultOnlyInRun := fun _ => hrun }
  · have hroom : s.sp + 1 ≤ s.config.stackDepth := Nat.lt_of_le_of_ne hs.depth hsp
    exact { hs with
      slots := List.length_set.trans hs.slots
      depth := hroom
      overflowAtCapacity := fun h => nomatch hfault.symm.trans h
      underflowAtZero := fun h => nomatch hfault.symm.trans h }
  · exact { hs with overflowAtCapacity := nofun, underflowAtZero := fun _ => hsp, faultOnlyInRun := fun _ => hrun }
  · exact { hs with
      depth := (Nat.sub_le s.sp 1).trans hs.depth
      overflowAtCapacity := fun h => nomatch hfault.symm.trans h
      underflowAtZero := fun h => nomatch hfault.symm.trans h }
  · exact hs.congr hconfig hmem hstack hsp ht fun _ => hrunning.trans hrun

theorem inv_afterFetch {s : State} (keys : BitVec 16) (rnd : Byte) (hs : s.Inv) : (afterFetch keys rnd s).Inv :=
  hs.congr rfl hs.memory rfl rfl rfl fun _ => rfl

theorem inv_runCycle {keys : BitVec 16} {rnd : Byte} {s t : State} (hs : s.Inv) (h : runCycle keys rnd s = .next t) :
    t.Inv := by
  obtain ⟨-, rfl⟩ | ⟨-, -, rfl⟩ | ⟨hrun, i, -, hexec⟩ := runCycle_cases h
  · exact hs
  · exact inv_afterFetch keys rnd hs
  · have hfault : s.fault = .none := by simpa [halted] using hrun
    exact inv_exec (inv_afterFetch keys rnd hs) hfault rfl hexec

/-- Settles O58: a Reset leaves a reset state, a Load one write of canonical memory, a Cycle what an instruction leaves;
the other events are outside what the invariant is about. -/
theorem stepKeepsTheInvariant : Obligations.StepKeepsTheInvariant := by
  intro s t hs h
  have deliver (rest : List HostEvent) : ({ s with inbox := rest } : State).Inv := hs.congr rfl hs.memory rfl rfl rfl id
  have drawn : ({ s with draws := s.draws + 1 } : State).Inv := hs.congr rfl hs.memory rfl rfl rfl id
  obtain ⟨-, -, rfl⟩ | ⟨-, -, h⟩ | ⟨k, b, rest, -, h⟩ | ⟨rest, -, rfl⟩ | ⟨rest, -, rfl⟩ | ⟨rest, -, rfl⟩ |
    ⟨a, b, rest, -, -, rfl⟩ := step_cases h
  · exact hs
  · exact inv_runCycle drawn h
  · exact inv_runCycle (deliver rest) h
  · exact hs.congr rfl hs.memory rfl rfl rfl id
  · exact hs.congr rfl hs.memory rfl rfl rfl id
  · exact (inv_resetWith hs.legalCore).congr rfl rfl rfl rfl rfl id
  · exact hs.congr rfl (memWrite_memWf (zextAddr a) b _ (deliver rest).memory) rfl rfl rfl id

end Sys2Proof.Machine
end

section
/-! The top four bits of I, PC and the stack slots are unobservable (spec/10_state.md R24, R27; spec/20_memory.md R62). A
simulation: every shared operation takes states that look the same, and values with the same low 12 bits, to states that
look the same, hence so does every instruction, cycle, event and step. -/

namespace Sys2Proof.Machine

/-! The low 12 bits of a sum are those of its terms. -/

theorem sameLow12_iff (a b : Addr) : SameLow12 a b ↔ a.toNat % 4096 = b.toNat % 4096 := by
  rw [SameLow12, effective_eq_mod, effective_eq_mod]

theorem SameLow12.add {a b : Addr} (h : SameLow12 a b) (c : Addr) : SameLow12 (a + c) (b + c) := by
  rw [sameLow12_iff] at h ⊢
  rw [BitVec.toNat_add, BitVec.toNat_add]
  omega

theorem SameLow12.sub {a b : Addr} (h : SameLow12 a b) (c : Addr) : SameLow12 (a - c) (b - c) := by
  rw [BitVec.sub_eq_add_neg, BitVec.sub_eq_add_neg]
  exact h.add (-c)

theorem SameLow12.ite {a b a' b' : Addr} (h : SameLow12 a b) (h' : SameLow12 a' b') (c : Prop) [Decidable c] :
    SameLow12 (if c then a else a') (if c then b else b') := by
  split
  · exact h
  · exact h'

/-- A slot after a write of one, a missing slot reading 0 and taking no write (log 10). -/
theorem getD_set (l : List Addr) (k : Nat) (a : Addr) (j : Nat) :
    (l.set k a).getD j 0 = if j = k ∧ k < l.length then a else l.getD j 0 := by
  by_cases hjk : j = k
  · subst hjk
    by_cases hlen : j < l.length
    · rw [if_pos ⟨rfl, hlen⟩, getD_set_same a hlen]
    · rw [if_neg fun h => hlen h.2, List.set_eq_of_length_le (not_lt.1 hlen)]
  · rw [if_neg fun h => hjk h.1, getD_set_other a hjk]

/-! A Load (spec/20_memory.md R76). -/

theorem step_load_in_run {s : State} {a : Addr12} {b : Byte} {rest : List HostEvent}
    (h : s.inbox = .load a b :: rest) (hrun : s.running = true) : step s = .fault .loadDuringRun :=
  (step_of_event h).trans (if_pos hrun)

theorem step_load_before_run {s : State} {a : Addr12} {b : Byte} {rest : List HostEvent}
    (h : s.inbox = .load a b :: rest) (hrun : s.running = false) :
    step s = .next (memWrite (zextAddr a) b { s with inbox := rest }) :=
  (step_of_event h).trans (if_neg (by simp [hrun]))

namespace LooksSame

section
variable {s t : State} (hst : LooksSame s t)
include hst

/-! What states that look the same read. -/

theorem readV (r : Reg) : Machine.readV t r = Machine.readV s r := readV_congr hst.v r

theorem pressed (k : Byte) : Machine.pressed t k = Machine.pressed s k := by
  rw [Machine.pressed, Machine.pressed, hst.keys, hst.config]

theorem ea (k : Nat) : SameLow12 (Machine.ea s k) (Machine.ea t k) := hst.i.add _

theorem memRead {a b : Addr} (h : SameLow12 a b) : Machine.memRead t b = Machine.memRead s a := by
  rw [memRead_congr hst.mem hst.config, Machine.memRead, Machine.memRead, h]

theorem fetchWord : Machine.fetchWord t = Machine.fetchWord s := by
  rw [Machine.fetchWord, Machine.fetchWord, hst.memRead hst.pc, hst.memRead (hst.pc.add 1)]

theorem halted : Machine.halted t = Machine.halted s := by
  rw [Machine.halted, Machine.halted, hst.fault]

theorem drawRows (ox oy fuel row : Nat) (acc : Display × Bool) :
    Machine.drawRows t ox oy fuel row acc = Machine.drawRows s ox oy fuel row acc := by
  induction fuel generalizing row acc with
  | zero => rfl
  | succ fuel ih => rw [Machine.drawRows, Machine.drawRows, hst.memRead (hst.ea row), ih]

theorem drawn (vx vy : Byte) (n : Nat) : Machine.drawn t vx vy n = Machine.drawn s vx vy n := by
  rw [Machine.drawn, Machine.drawn, hst.drawRows, hst.fb]

/-! What the shared operations do to states that look the same. -/

theorem writeV (r : Reg) (b : Byte) : LooksSame (writeV r b s) (writeV r b t) :=
  { hst with v := congrArg (·.set r.val b) hst.v }

theorem setPc {a b : Addr} (h : SameLow12 a b) : LooksSame (setPc a s) (setPc b t) :=
  { hst with pc := h }

theorem setI {a b : Addr} (h : SameLow12 a b) : LooksSame (setI a s) (setI b t) :=
  { hst with i := h }

theorem setDt (b : Byte) : LooksSame (setDt b s) (setDt b t) := { hst with dt := rfl }

theorem setSt (b : Byte) : LooksSame (setSt b s) (setSt b t) := { hst with st := rfl }

theorem setDirty (d : Bool) : LooksSame (setDirty d s) (setDirty d t) := { hst with dirty := rfl }

theorem setDisplay (fb : Display) : LooksSame (setDisplay fb s) (setDisplay fb t) :=
  { hst with fb := rfl, dirty := rfl }

theorem raiseFatal (c : FaultCode) : LooksSame (raiseFatal c s) (raiseFatal c t) := { hst with fault := rfl }

theorem memWrite {a b : Addr} (h : SameLow12 a b) (c : Byte) : LooksSame (memWrite a c s) (memWrite b c t) :=
  { hst with mem := by rw [memWrite_mem, memWrite_mem, hst.mem, hst.config, h] }

theorem skipIf (c : Bool) : LooksSame (skipIf c s) (skipIf c t) := by
  cases c with
  | true => exact hst.setPc (hst.pc.add 2)
  | false => exact hst

theorem pushPc : LooksSame (pushPc s) (pushPc t) :=
  { hst with
    sp := congrArg (· + 1) hst.sp
    slots := by rw [pushPc_stack, pushPc_stack, List.length_set, List.length_set, hst.slots]
    stack := fun k => by
      rw [pushPc_stack, pushPc_stack, getD_set, getD_set, hst.sp, hst.slots]
      exact hst.pc.ite (hst.stack k) _ }

theorem popPc : LooksSame (popPc s) (popPc t) :=
  { hst with
    sp := congrArg (· - 1) hst.sp
    pc := by
      rw [popPc_pc, popPc_pc, hst.sp]
      exact hst.stack (s.sp - 1) }

theorem storeRegs (n : Nat) : LooksSame (storeRegs s n) (storeRegs t n) := by
  induction n with
  | zero => exact hst
  | succ n ih =>
    rw [Machine.storeRegs, Machine.storeRegs, hst.readV]
    exact ih.memWrite (hst.ea n) _

theorem storeDigits (vx : Byte) (n : Nat) : LooksSame (storeDigits s vx n) (storeDigits t vx n) := by
  induction n with
  | zero => exact hst
  | succ n ih => exact ih.memWrite (hst.ea n) _

theorem loadRegs (n : Nat) : LooksSame (loadRegs s n) (loadRegs t n) := by
  induction n with
  | zero => exact hst
  | succ n ih =>
    rw [Machine.loadRegs, Machine.loadRegs, hst.memRead (hst.ea n)]
    exact ih.writeV _ _

theorem applyTick : LooksSame (applyTick s) (applyTick t) := by
  rw [Machine.applyTick, Machine.applyTick, hst.dt, hst.st]
  exact (hst.setDt _).setSt _

theorem applyReset : LooksSame (applyReset s) (applyReset t) := by
  rw [Machine.applyReset, Machine.applyReset, hst.config, hst.inbox, hst.draws]
  exact ⟨rfl, rfl, rfl, rfl, rfl, fun _ => rfl, rfl, rfl, rfl, rfl, rfl, rfl, rfl, rfl, rfl, rfl, rfl, rfl⟩

theorem afterFetch (keys : BitVec 16) (rnd : Byte) : LooksSame (afterFetch keys rnd s) (afterFetch keys rnd t) :=
  { hst with pc := hst.pc.add 2, keys := rfl, rnd := rfl, running := rfl }

end

/-! What instructions, cycles and steps do to states that look the same. -/

variable {s t s' : State}

theorem exec {i : Instr} (hst : LooksSame s t) (h : Machine.exec i s = .next s') :
    ∃ t', Machine.exec i t = .next t' ∧ LooksSame s' t' := by
  cases i with
  | cls =>
    cases h
    exact ⟨_, rfl, hst.setDisplay _⟩
  | drw x y n =>
    cases h
    refine ⟨_, rfl, ?_⟩
    rw [hst.readV, hst.readV, hst.drawn]
    exact (hst.setDisplay _).writeV VF _
  | ret =>
    by_cases hsp : s.sp = 0
    · rw [exec_ret_empty hsp] at h
      cases h
      exact ⟨_, exec_ret_empty (hst.sp.trans hsp), hst.raiseFatal _⟩
    · rw [exec_ret_active hsp] at h
      cases h
      exact ⟨_, exec_ret_active (hst.sp.trans_ne hsp), hst.popPc⟩
  | call nnn =>
    have hcap : t.sp = t.config.stackDepth ↔ s.sp = s.config.stackDepth := by rw [hst.sp, hst.config]
    by_cases hsp : s.sp = s.config.stackDepth
    · rw [exec_call_full nnn hsp] at h
      cases h
      exact ⟨_, exec_call_full nnn (hcap.2 hsp), hst.raiseFatal _⟩
    · rw [exec_call_room nnn hsp] at h
      cases h
      exact ⟨_, exec_call_room nnn (mt hcap.1 hsp), hst.pushPc.setPc rfl⟩
  | jp nnn =>
    cases h
    exact ⟨_, rfl, hst.setPc rfl⟩
  | jpV0 nnn =>
    cases h
    refine ⟨_, rfl, ?_⟩
    rw [hst.readV]
    exact hst.setPc rfl
  | seByte | sneByte | seReg | sneReg | skp | sknp =>
    cases h
    refine ⟨_, rfl, ?_⟩
    simp only [hst.readV, hst.pressed]
    exact hst.skipIf _
  | ldByte x nn =>
    cases h
    exact ⟨_, rfl, hst.writeV x nn⟩
  | addByte | ldReg | orReg | andReg | xorReg | rnd | ldVxDt =>
    cases h
    refine ⟨_, rfl, ?_⟩
    simp only [hst.readV, hst.rnd, hst.dt]
    exact hst.writeV _ _
  | addReg | subReg | shr | subn | shl =>
    cases h
    refine ⟨_, rfl, ?_⟩
    simp only [hst.readV]
    exact (hst.writeV _ _).writeV _ _
  | ldVxK x =>
    cases h
    refine ⟨_, rfl, ?_⟩
    rw [hst.keys]
    split
    · exact hst.setPc (hst.pc.sub 2)
    · exact hst.writeV x _
  | ldI nnn =>
    cases h
    exact ⟨_, rfl, hst.setI rfl⟩
  | addI x =>
    cases h
    refine ⟨_, rfl, ?_⟩
    rw [hst.readV]
    exact hst.setI (hst.i.add _)
  | ldF x =>
    cases h
    refine ⟨_, rfl, ?_⟩
    rw [hst.readV]
    exact hst.setI rfl
  | ldB x =>
    cases h
    refine ⟨_, rfl, ?_⟩
    rw [hst.readV]
    exact hst.storeDigits _ 3
  | ldMemVx x =>
    cases h
    exact ⟨_, rfl, hst.storeRegs _⟩
  | ldVxMem x =>
    cases h
    exact ⟨_, rfl, hst.loadRegs _⟩
  | ldDtVx x =>
    cases h
    exact ⟨_, rfl, hst.readV x ▸ hst.setDt _⟩
  | ldStVx x =>
    cases h
    exact ⟨_, rfl, hst.readV x ▸ hst.setSt _⟩

theorem runCycle {keys : BitVec 16} {rnd : Byte} (hst : LooksSame s t) (h : Machine.runCycle keys rnd s = .next s') :
    ∃ t', Machine.runCycle keys rnd t = .next t' ∧ LooksSame s' t' := by
  have hfault {u : State} : Machine.halted u = false → u.fault = .none := by simp [Machine.halted]
  obtain ⟨hh, rfl⟩ | ⟨hh, ⟨e, he⟩, rfl⟩ | ⟨hh, i, hi, hexec⟩ := runCycle_cases h
  · refine ⟨t, runCycle_halted keys rnd ?_, hst⟩
    simpa [Machine.halted, hst.fault] using hh
  · exact ⟨_, runCycle_error keys rnd (hst.fault.trans (hfault hh)) (hst.fetchWord ▸ he), hst.afterFetch keys rnd⟩
  · rw [runCycle_ok keys rnd (hst.fault.trans (hfault hh)) (hst.fetchWord ▸ hi)]
    exact (hst.afterFetch keys rnd).exec hexec

theorem step (hst : LooksSame s t) (h : Machine.step s = .next s') :
    ∃ t', Machine.step t = .next t' ∧ LooksSame s' t' := by
  have deliver (rest : List HostEvent) : LooksSame { s with inbox := rest } { t with inbox := rest } :=
    { hst with inbox := rfl }
  have drawn : LooksSame { s with draws := s.draws + 1 } { t with draws := s.draws + 1 } := { hst with draws := rfl }
  obtain ⟨hh, hin, rfl⟩ | ⟨hh, hin, hcyc⟩ | ⟨k, b, rest, hin, hcyc⟩ | ⟨rest, hin, rfl⟩ | ⟨rest, hin, rfl⟩ |
    ⟨rest, hin, rfl⟩ | ⟨a, b, rest, hin, hrun, rfl⟩ := step_cases h
  · refine ⟨t, ?_, hst⟩
    rw [step_of_empty (hst.inbox.trans hin), hst.halted, if_pos hh]
  · rw [step_of_empty (hst.inbox.trans hin), hst.halted, hh, hst.draws]
    exact drawn.runCycle hcyc
  · rw [step_of_event (hst.inbox.trans hin)]
    exact (deliver rest).runCycle hcyc
  · exact ⟨_, step_of_event (hst.inbox.trans hin), (deliver rest).applyTick⟩
  · exact ⟨_, step_of_event (hst.inbox.trans hin), (deliver rest).setDirty false⟩
  · exact ⟨_, step_of_event (hst.inbox.trans hin), (deliver rest).applyReset⟩
  · exact ⟨_, step_load_before_run (hst.inbox.trans hin) (hst.running.trans hrun), (deliver rest).memWrite rfl b⟩

end LooksSame

/-! The one stop of a step is a Load in a run. -/

theorem runCycle_total (keys : BitVec 16) (rnd : Byte) (s : State) : ∃ t, runCycle keys rnd s = .next t := by
  unfold runCycle
  split
  · exact ⟨s, rfl⟩
  · split
    · exact exec_total _ _
    · exact ⟨_, rfl⟩

/-- A step answers a next state, or its event is a Load in a run. -/
theorem step_total (s : State) :
    (∃ t, step s = .next t) ∨ ((∃ a b rest, s.inbox = .load a b :: rest) ∧ s.running = true) := by
  cases hin : s.inbox with
  | nil =>
    refine .inl ?_
    rw [step_of_empty hin]
    split
    · exact ⟨s, rfl⟩
    · exact runCycle_total _ _ _
  | cons e rest =>
    cases e with
    | load a b =>
      cases hrun : s.running with
      | true => exact .inr ⟨⟨a, b, rest, rfl⟩, rfl⟩
      | false => exact .inl ⟨_, step_load_before_run hin hrun⟩
    | cycle keys rnd =>
      refine .inl ?_
      rw [step_of_event hin]
      exact runCycle_total keys rnd _
    | reset | tick | renderAck => exact .inl ⟨_, step_of_event hin⟩

/-- Settles O50: next states by the simulation; and the one stop is decided by the event and the run bit, in which the
two states agree. -/
theorem topAddressBitsAreUnobservable : Obligations.TopAddressBitsAreUnobservable := by
  intro s t hst
  refine ⟨fun s' h => hst.step h, fun r h => ?_, fun r h => ?_⟩
  all_goals obtain ⟨s', hs'⟩ | ⟨⟨a, b, rest, hin⟩, hrun⟩ := step_total s
  · exact nomatch hs'.symm.trans h
  · cases (step_load_in_run hin hrun).symm.trans h
    exact step_load_in_run (hst.inbox.trans hin) (hst.running.trans hrun)
  · exact nomatch hs'.symm.trans h
  · exact nomatch (step_load_in_run hin hrun).symm.trans h

end Sys2Proof.Machine
end

section
/-! The memory-indexed instructions (spec/42_index_memory.md R173, R176, R177; spec/20_memory.md R62 to R64). Each loop
reaches the bytes EA(0), EA(1), ... and no other. -/

namespace Sys2Proof.Machine

/-! What a store leaves unchanged, in any memory. -/

theorem memRead_memWrite_other {a a' : Addr} (b : Byte) (s : State) (h : effective a' ≠ effective a) :
    memRead (memWrite a b s) a' = memRead s a' :=
  Memory.read_write_other s.mem (effective a) b (effective a') h

theorem sameMemoryBut_storeRegs (s : State) (n : Nat) : SameMemoryBut n s (storeRegs s n) := by
  induction n with
  | zero => exact fun _ _ => rfl
  | succ n ih =>
    intro a ha
    rw [storeRegs, memRead_memWrite_other _ _ (ha n n.lt_succ_self)]
    exact ih a fun k hk => ha k (Nat.lt_succ_of_lt hk)

theorem sameMemoryBut_storeDigits (s : State) (vx : Byte) (n : Nat) : SameMemoryBut n s (storeDigits s vx n) := by
  induction n with
  | zero => exact fun _ _ => rfl
  | succ n ih =>
    intro a ha
    rw [storeDigits, memRead_memWrite_other _ _ (ha n n.lt_succ_self)]
    exact ih a fun k hk => ha k (Nat.lt_succ_of_lt hk)

/-! What the stored bytes read as, in canonical memory. -/

/-- The distance of EA(k) from I, modulo 4096. -/
theorem offset_ea (s : State) {k : Nat} (hk : k < 4096) :
    (effective (ea s k) + 4096 - s.i.toNat % 4096) % 4096 = k := by
  rw [effective_ea]
  omega

theorem memRead_storeDigits_ea {s : State} (vx : Byte) {k : Nat} (hk : k < 3) (hs : s.memWf = true) :
    memRead (storeDigits s vx 3) (ea s k) = bcdDigit vx k := by
  rw [memRead_storeDigits s vx 3 le_rfl hs, offset_ea s (by omega), if_pos hk]

theorem memRead_storeRegs_ea {s : State} {n : Nat} (hn : n ≤ 16) {r : Reg} (hr : r.val < n) (hs : s.memWf = true) :
    memRead (storeRegs s n) (ea s r.val) = readV s r := by
  have hreg : regOf r.val = r := Fin.ofNat_val_eq_self r
  rw [memRead_storeRegs s n hn hs, offset_ea s (by omega), if_pos hr, hreg]

theorem bcdDigit_hundreds (vx : Byte) : (bcdDigit vx 0).toNat = vx.toNat / 100 := by
  have := vx.isLt
  rw [bcdDigit, BitVec.toNat_ofNat]
  omega

theorem bcdDigit_tens (vx : Byte) : (bcdDigit vx 1).toNat = vx.toNat / 10 % 10 := by
  rw [bcdDigit, BitVec.toNat_ofNat]
  omega

theorem bcdDigit_ones (vx : Byte) : (bcdDigit vx 2).toNat = vx.toNat % 10 := by
  rw [bcdDigit, BitVec.toNat_ofNat]
  · omega
  all_goals decide

/-- Settles O30: FX33 is the digit loop. -/
theorem bcdStoresThreeDigits : Obligations.BcdStoresThreeDigits := by
  intro s x hs
  refine ⟨storeDigits s (readV s x) 3, rfl, ?_, ?_, ?_, sameMemoryBut_storeDigits s _ 3, storeDigits_eq s _ 3⟩
  · rw [memRead_storeDigits_ea _ (by decide) hs, bcdDigit_hundreds]
  · rw [memRead_storeDigits_ea _ (by decide) hs, bcdDigit_tens]
  · rw [memRead_storeDigits_ea _ (by decide) hs, bcdDigit_ones]

/-- Settles O31: FX55 is the store loop of X + 1 registers. -/
theorem storeRegistersWritesMemory : Obligations.StoreRegistersWritesMemory := by
  intro s x hs
  exact ⟨storeRegs s (x.val + 1), rfl, fun r hr => memRead_storeRegs_ea x.isLt (Nat.lt_succ_of_le hr) hs,
    sameMemoryBut_storeRegs s _, storeRegs_eq s _⟩

theorem onlyRegs_loadRegs (s : State) (n : Nat) : OnlyRegs s (loadRegs s n) :=
  ⟨loadRegs_eq s n, memRead_congr (loadRegs_mem s n) (loadRegs_config s n)⟩

/-- FX65 in either range of registers (spec/42_index_memory.md R177). -/
theorem readV_loadRegs_le {s : State} {x r : Reg} (hr : r ≤ x) :
    readV (loadRegs s (x.val + 1)) r = memRead s (ea s r.val) :=
  (readV_loadRegs s _ x.isLt r).trans (if_pos (Nat.lt_succ_of_le hr))

theorem readV_loadRegs_gt {s : State} {x r : Reg} (hr : ¬r ≤ x) : readV (loadRegs s (x.val + 1)) r = readV s r :=
  (readV_loadRegs s _ x.isLt r).trans (if_neg fun h => hr (Nat.le_of_lt_succ h))

/-- Settles O32: FX65 is the load loop of X + 1 registers. -/
theorem loadRegistersReadsMemory : Obligations.LoadRegistersReadsMemory :=
  fun s x => ⟨loadRegs s (x.val + 1), rfl, fun _ => readV_loadRegs_le, fun _ => readV_loadRegs_gt,
    onlyRegs_loadRegs s _⟩

theorem ea_congr {s t : State} (h : t.i = s.i) (k : Nat) : ea t k = ea s k := by
  rw [ea, ea, h]

/-- Settles O33: each register is loaded from the byte it was stored at. -/
theorem loadRestoresStoredRegisters : Obligations.LoadRestoresStoredRegisters := by
  intro s t u x hs h hmem hi hconfig
  cases h
  refine ⟨loadRegs u (x.val + 1), rfl, fun r hr => ?_⟩
  have hui : u.i = s.i := hi.trans (storeRegs_i s _)
  rw [readV_loadRegs_le hr, ea_congr hui, memRead_congr hmem hconfig,
    memRead_storeRegs_ea x.isLt (Nat.lt_succ_of_le hr) hs]

/-- The data addresses of FX33 and FX55 are the bytes their frames except. -/
theorem memRead_eq_of_sameMemoryBut {s t : State} {n : Nat} (h : SameMemoryBut n s t) {a : Addr}
    (ha : ∀ e ∈ (List.range n).map (ea s), effective a ≠ effective e) : memRead t a = memRead s a :=
  h a fun _ hk => ha _ (List.mem_map_of_mem (List.mem_range.2 hk))

/-- Settles O34: FX33 and FX55 present the addresses they write, and by the frames no other instruction writes memory. -/
theorem onlyPresentedBytesChange : Obligations.OnlyPresentedBytesChange := by
  intro s t i h
  have hframe := frameOf_exec h
  cases i with
  | ldB x =>
    cases h
    exact ⟨fun a => memRead_eq_of_sameMemoryBut (sameMemoryBut_storeDigits s _ 3), fun hb => absurd rfl (hb x)⟩
  | ldMemVx x =>
    cases h
    exact ⟨fun a => memRead_eq_of_sameMemoryBut (sameMemoryBut_storeRegs s _), fun _ hm => absurd rfl (hm x)⟩
  | _ =>
    rw [hframe]
    exact ⟨fun _ _ => rfl, fun _ _ => rfl⟩

/-- Consecutive addresses reach what consecutive effective addresses reach. -/
theorem SameLow12.ea_succ {s : State} {a : Addr} {k : Nat} (h : SameLow12 a (ea s k)) :
    SameLow12 (a + 1) (ea s (k + 1)) := by
  have hsucc : ea s (k + 1) = ea s k + 1 := by
    rw [ea, ea, BitVec.ofNat_add, BitVec.add_assoc]
    rfl
  rw [hsucc]
  exact h.add 1

theorem memRead_of_sameLow12 {a b : Addr} (h : SameLow12 a b) (s : State) : memRead s a = memRead s b := by
  rw [memRead, memRead, h]

/-- Settles O35: the two bytes at PC are the two registers' bytes, and a word is its high byte and its low byte. -/
theorem fetchSeesStores : Obligations.FetchSeesStores := by
  intro s t x r r' hs h hsucc hle hpc
  cases h
  have hle' : r'.val ≤ x.val := hle
  have hr : r.val < x.val + 1 := by omega
  have hlow : SameLow12 (s.pc + 1) (ea s r'.val) := hsucc ▸ SameLow12.ea_succ hpc
  rw [fetchWord, storeRegs_pc, memRead_of_sameLow12 hpc, memRead_of_sameLow12 hlow, memRead_storeRegs_ea x.isLt hr hs,
    memRead_storeRegs_ea x.isLt (Nat.lt_succ_of_le hle) hs]
  rfl

end Sys2Proof.Machine
end

section
/-! Cycles and host events (spec/20_memory.md R70; spec/44_timers_keys.md R218; spec/60_exceptions.md R234, R249;
spec/70_reset_and_hazards.md R270, R276, R278; spec/10_state.md R45). -/

namespace Sys2Proof.Machine

/-! The cycle of a step. -/

theorem halted_eq_true {s : State} (h : s.fault ≠ .none) : halted s = true := by
  simp [halted, h]

/-- Settles O6: a Cycle event is a cycle on the rest of the script. -/
theorem cycleEventFetchesThenExecutes : Obligations.CycleEventFetchesThenExecutes := by
  intro s keys rnd rest hin
  rw [step_of_event hin]
  exact ⟨fun h => runCycle_halted keys rnd h, fun h _ hd => runCycle_ok keys rnd h hd,
    fun h _ hd => runCycle_error keys rnd h hd⟩

theorem step_empty_running {s : State} (hin : s.inbox = []) (h : s.fault = .none) :
    step s = runCycle (Config.freeKeys s.draws) (Config.freeByte s.draws) { s with draws := s.draws + 1 } :=
  (step_of_empty hin).trans (if_neg (by simp [halted, h]))

/-- Settles O7: a step with no event scripted is a cycle with the free samples. -/
theorem stepRunsTheDecodedInstruction : Obligations.StepRunsTheDecodedInstruction := by
  intro s hin
  exact ⟨fun h => (step_of_empty hin).trans (if_pos (halted_eq_true h)),
    fun h _ hd => (step_empty_running hin h).trans (runCycle_ok _ _ h hd),
    fun h _ hd => (step_empty_running hin h).trans (runCycle_error _ _ h hd)⟩

theorem memRead_placeWord_other {a : Addr} {s : State} (w : Opcode) (hhi : effective a ≠ effective s.pc)
    (hlo : effective a ≠ effective (s.pc + 1)) : memRead (placeWord w s) a = memRead s a :=
  (memRead_memWrite_other _ _ hlo).trans (memRead_memWrite_other _ _ hhi)

/-- Settles O8: the step after the placing is a running cycle, and what it fetches is the placed word. -/
theorem placedWordRunsNext : Obligations.PlacedWordRunsNext := by
  intro s i hs
  have hword : BitVec.ofNat 16 ((encodeWord i).toNat % 2 ^ 16) = encodeWord i := by
    rw [Nat.mod_eq_of_lt (encodeWord i).isLt, BitVec.ofNat_toNat, BitVec.setWidth_eq]
  have hdecode : decodeWord (fetchWord (placeWord (encodeWord i) s)) = .ok i := by
    rw [fetchWord_placeWord _ s hs, decodeWord_encodeWord]
  rw [State.withFetchWord, hword]
  refine ⟨_, (step_empty_running rfl rfl).trans (runCycle_ok _ _ rfl hdecode), rfl, rfl, rfl, rfl, rfl, rfl, rfl, rfl, rfl,
    rfl, rfl, fun a hhi hlo => ?_⟩
  exact memRead_placeWord_other (encodeWord i) hhi hlo

/-! Waiting and parked cores (spec/10_state.md R43, spec/70_reset_and_hazards.md R278). -/

theorem exec_ldVxK_no_key {s : State} (x : Reg) (h : s.keys = 0) : exec (.ldVxK x) s = .next (setPc (s.pc - 2) s) :=
  congrArg _ (if_pos h)

theorem exec_ldVxK_key {s : State} (x : Reg) (h : s.keys ≠ 0) :
    exec (.ldVxK x) s = .next (writeV x (lowestKey s.keys) s) :=
  congrArg _ (if_neg h)

/-- A jump after the fetch leaves the spec's state but for PC. -/
theorem sameArch_setPc_afterFetch {a : Addr} {s : State} (keys : BitVec 16) (rnd : Byte) (h : a = s.pc) :
    SameArch s (setPc a (afterFetch keys rnd s)) :=
  ⟨rfl, rfl, h, rfl, rfl, rfl, rfl, rfl, rfl, rfl, rfl, rfl⟩

/-- Settles O46: FX0A goes back by the 2 that the fetch went on. -/
theorem waitingCycleChangesNothing : Obligations.WaitingCycleChangesNothing := by
  rintro s _ rnd ⟨hfault, ⟨x, hx⟩, rfl⟩
  exact ⟨_, (runCycle_ok 0 rnd hfault hx).trans (exec_ldVxK_no_key x rfl),
    sameArch_setPc_afterFetch 0 rnd (BitVec.add_sub_cancel s.pc 2)⟩

/-- Being parked is a matter of the spec's state alone. -/
theorem parked_of_sameArch {s t : State} (h : SameArch s t) (hs : Parked s) : Parked t := by
  obtain ⟨-, -, hpc, -, -, hmem, -, -, -, -, hfault, hconfig⟩ := h
  rw [Parked, hfault, hpc, fetchWord_congr hpc hmem hconfig]
  exact hs

/-- Settles O51: the jump goes to PC, a parked core's PC being a 12-bit address. -/
theorem parkedCoreStaysParked : Obligations.ParkedCoreStaysParked := by
  rintro s keys rnd ⟨hfault, hpc, hword⟩
  have htarget : zextAddr (s.pc.setWidth 12) = s.pc := by
    apply BitVec.eq_of_toNat_eq
    rw [zextAddr_toNat, BitVec.toNat_setWidth]
    exact Nat.mod_eq_of_lt hpc
  have hdecode : decodeWord (fetchWord s) = .ok (.jp (s.pc.setWidth 12)) := hword ▸ decodeWord_encodeWord _
  have hsame := sameArch_setPc_afterFetch keys rnd htarget
  exact ⟨_, runCycle_ok keys rnd hfault hdecode, hsame, parked_of_sameArch hsame ⟨hfault, hpc, hword⟩⟩

/-! Tick and RenderAck. -/

theorem countDown_toNat (b : Byte) : (countDown b).toNat = b.toNat - 1 := by
  unfold countDown
  split
  · subst b
    rfl
  · bv_omega

/-- Settles O42: a Tick counts each timer down on its own value. -/
theorem tickCountsBothTimersDown : Obligations.TickCountsBothTimersDown :=
  fun s _ hin => ⟨_, step_of_event hin, countDown_toNat s.dt, countDown_toNat s.st, rfl, fun _ => rfl⟩

/-- Settles O53: a RenderAck is `setDirty false` on the rest of the script. -/
theorem renderAckClearsDirty : Obligations.RenderAckClearsDirty :=
  fun _ _ hin => step_of_event hin

/-! Load. -/

theorem effective_zextAddr (a : Addr12) : effective (zextAddr a) = a.toNat := by
  rw [effective_eq_mod, zextAddr_toNat]
  exact Nat.mod_eq_of_lt a.isLt

/-- Settles O54: before the run a Load is one write of canonical memory, and in a run it stops. -/
theorem loadWritesOneByteBeforeTheRun : Obligations.LoadWritesOneByteBeforeTheRun := by
  intro s a b rest hs hin
  refine ⟨fun hrun => ⟨_, step_load_before_run hin hrun, fun a' => ?_, rfl⟩, step_load_in_run hin⟩
  rw [← effective_zextAddr a]
  exact memRead_memWrite (zextAddr a) b { s with inbox := rest } a' hs

/-! Halted cores (spec/60_exceptions.md R234, R235). -/

theorem step_halted_cycle {s : State} {keys : BitVec 16} {rnd : Byte} {rest : List HostEvent} (h : s.fault ≠ .none)
    (hin : s.inbox = .cycle keys rnd :: rest) : step s = .next { s with inbox := rest } :=
  (step_of_event hin).trans (runCycle_halted keys rnd h)

theorem step_halted_empty {s : State} (h : s.fault ≠ .none) (hin : s.inbox = []) : step s = .next s :=
  (step_of_empty hin).trans (if_pos (halted_eq_true h))

/-- No event but a Reset changes FAULT, PC, a register or the stack of a halted core. -/
theorem step_halted_keeps {s t : State} (hfault : s.fault ≠ .none) (h : step s = .next t)
    (hreset : s.inbox.head? ≠ some .reset) :
    t.fault = s.fault ∧ t.pc = s.pc ∧ t.v = s.v ∧ t.sp = s.sp ∧ t.stack = s.stack := by
  obtain ⟨-, -, rfl⟩ | ⟨hh, -, -⟩ | ⟨k, b, rest, hin, -⟩ | ⟨rest, -, rfl⟩ | ⟨rest, -, rfl⟩ | ⟨rest, hin, -⟩ |
    ⟨a, b, rest, -, -, rfl⟩ := step_cases h
  · exact ⟨rfl, rfl, rfl, rfl, rfl⟩
  · exact nomatch hh.symm.trans (halted_eq_true hfault)
  · cases (step_halted_cycle hfault hin).symm.trans h
    exact ⟨rfl, rfl, rfl, rfl, rfl⟩
  · exact ⟨rfl, rfl, rfl, rfl, rfl⟩
  · exact ⟨rfl, rfl, rfl, rfl, rfl⟩
  · exact absurd (congrArg List.head? hin) hreset
  · exact ⟨rfl, rfl, rfl, rfl, rfl⟩

/-- Settles O18: one lemma for each kind of event, and a Reset is a reset state. -/
theorem faultIsStickyUntilReset : Obligations.FaultIsStickyUntilReset := by
  intro s t hfault h
  refine ⟨step_halted_keeps hfault h, fun k b rest hin => ?_, fun hin => ?_, fun rest hin => ?_⟩
  · cases (step_halted_cycle hfault hin).symm.trans h
    rfl
  · cases (step_halted_empty hfault hin).symm.trans h
    rfl
  · cases (step_of_event hin).symm.trans h
    rfl

end Sys2Proof.Machine
end

section
/-! Reset, the loader and the clock edge (spec/10_state.md R45, R50; spec/70_reset_and_hazards.md R270, R276). -/

namespace Sys2Proof.Machine

/-! The reset values. -/

theorem memRead_resetWith (c : Config) (a : Addr) : memRead (State.resetWith c) a = unlisted c (effective a) := rfl

theorem resetValues_resetWith (c : Config) : ResetValues (State.resetWith c) where
  v r := Vector.getElem_replicate r.isLt
  i := rfl
  pc := rfl
  sp := rfl
  slots := rfl
  font _ ha := if_pos ha
  zero _ ha := if_neg (Nat.not_lt.2 ha)
  fb x y _ _ := pixel_blankDisplay x y
  dt := rfl
  st := rfl
  dirty := rfl
  fault := rfl

/-- The script and the counter of free values are outside the reset values. -/
theorem resetValues_applyReset (s : State) : ResetValues (applyReset s) :=
  { resetValues_resetWith s.config with }

theorem sameArch_applyReset (s : State) : SameArch (State.resetWith s.config) (applyReset s) :=
  ⟨rfl, rfl, rfl, rfl, rfl, rfl, rfl, rfl, rfl, rfl, rfl, rfl⟩

/-- Settles O52: a Reset event leaves the reset state of the same core, but for the script and the counter. -/
theorem resetLeavesTheResetValues : Obligations.ResetLeavesTheResetValues :=
  ⟨rfl, fun c => ⟨resetValues_resetWith c, rfl⟩, fun s rest hin =>
    ⟨_, step_of_event hin, resetValues_applyReset { s with inbox := rest }, sameArch_applyReset { s with inbox := rest },
      memRead_resetWith s.config, rfl⟩⟩

/-! The loader. -/

/-- The state after the Loads of `rom` from address `a` upward. -/
def loaded : List Byte → Addr12 → State → State
  | [], _, s => s
  | b :: rom, a, s => loaded rom (a + 1) (memWrite (zextAddr a) b s)

theorem run_loadEvents (rom : List Byte) (a : Addr12) (s : State) (hin : s.inbox = loadEvents rom a)
    (hrun : s.running = false) :
    Sys2Proof.core.run rom.length s = .next (loaded rom a { s with inbox := [] }) := by
  induction rom generalizing a s with
  | nil =>
    cases s
    cases hin
    rfl
  | cons b rom ih => exact (core_run_succ rom.length (step_load_before_run hin hrun)).trans (ih (a + 1) _ rfl hrun)

theorem loaded_eq (rom : List Byte) (a : Addr12) (s : State) : loaded rom a s = { s with mem := (loaded rom a s).mem } := by
  induction rom generalizing a s with
  | nil => rfl
  | cons b rom ih => rw [loaded, ih]; rfl

theorem loaded_memWf (rom : List Byte) (a : Addr12) (s : State) (hs : s.memWf = true) : (loaded rom a s).memWf = true := by
  induction rom generalizing a s with
  | nil => exact hs
  | cons b rom ih => exact ih _ _ (memWrite_memWf _ _ _ hs)

/-- What memory reads as after the Loads of a ROM that ends at 0xFFF or below. -/
theorem memRead_loaded (rom : List Byte) (a : Addr12) (s : State) (hs : s.memWf = true)
    (hfits : a.toNat + rom.length ≤ 4096) (x : Addr) :
    memRead (loaded rom a s) x =
      if a.toNat ≤ effective x ∧ effective x < a.toNat + rom.length then rom.getD (effective x - a.toNat) 0
      else memRead s x := by
  induction rom generalizing a s with
  | nil => simp [loaded]
  | cons b rom ih =>
    have hlen : (b :: rom).length = rom.length + 1 := List.length_cons
    have hsucc : (a + 1).toNat = (a.toNat + 1) % 4096 := BitVec.toNat_add a 1
    have ha := a.isLt
    have hx := effective_lt x
    rw [loaded, ih _ _ (memWrite_memWf _ _ _ hs) (by omega), memRead_memWrite _ _ _ _ hs, effective_zextAddr]
    rcases Nat.lt_trichotomy (effective x) a.toNat with hlt | heq | hgt
    · rw [if_neg (by omega), if_neg (by omega), if_neg (by omega)]
    · rw [if_neg (by omega), if_pos heq, if_pos (by omega), heq, Nat.sub_self]
      rfl
    · obtain ⟨k, hk⟩ : ∃ k, effective x - a.toNat = k + 1 := ⟨effective x - a.toNat - 1, by omega⟩
      have hk' : effective x - (a + 1).toNat = k := by omega
      by_cases hin : effective x < a.toNat + (rom.length + 1)
      · rw [if_pos (by omega), if_pos (by omega), hk, hk', List.getD_cons_succ]
      · rw [if_neg (by omega), if_neg (by omega), if_neg (by omega)]

/-- Settles O55: the run of the Loads is `loaded` on the reset state, from 0x200 upward. -/
theorem loaderReachesTheLaunchState : Obligations.LoaderReachesTheLaunchState := by
  intro c rom _ hrom
  have hfits : (0x200 : Addr12).toNat + rom.length ≤ 4096 := by
    have : rom.length ≤ 3584 := by simpa [romFits] using hrom
    exact Nat.add_le_add_left this 0x200
  have hread := memRead_loaded rom 0x200 (State.resetWith c) (resetWith_memWf c) hfits
  have hstart : (0x200 : Addr12).toNat = 0x200 := rfl
  refine ⟨_, run_loadEvents rom 0x200 _ rfl rfl, fun k hk => ?_, fun a ha => ?_, loaded_eq rom 0x200 _,
    loaded_memWf rom 0x200 _ (resetWith_memWf c)⟩
  · have haddr : effective (BitVec.ofNat 16 (0x200 + k)) = 0x200 + k := by
      rw [effective_eq_mod, BitVec.toNat_ofNat]
      omega
    refine (hread _).trans ?_
    rw [haddr, hstart, if_pos (by omega), Nat.add_sub_cancel_left]
  · refine (hread _).trans (if_neg ?_)
    omega

/-! The events of one clock edge (spec/10_state.md R45). -/

theorem ClockEdge.events_of_rst {c : ClockEdge} (h : c.rst = true) : c.events = [.reset] := by
  simp [ClockEdge.events, h]

/-- Without rst, an event is on the edge exactly when its enable is high with its arguments. -/
theorem ClockEdge.mem_events {c : ClockEdge} (h : c.rst = false) (e : HostEvent) :
    e ∈ c.events ↔ (∃ p, c.load = some p ∧ .load p.1 p.2 = e) ∨ (c.renderAck = true ∧ e = .renderAck) ∨
      (∃ p, c.cycle = some p ∧ .cycle p.1 p.2 = e) ∨ (c.tick = true ∧ e = .tick) := by
  have enabled (b : Bool) (e' : HostEvent) : e ∈ (if b then [e'] else []) ↔ b = true ∧ e = e' := by
    cases b <;> simp
  simp only [ClockEdge.events, h, Bool.false_eq_true, if_false, List.mem_append, Option.mem_toList, Option.map_eq_some_iff,
    enabled, or_assoc]

/-- An edge leaves out of the four events in R45's order those whose enable is low. -/
theorem ClockEdge.events_sublist {c : ClockEdge} (h : c.rst = false) :
    ∃ a b keys rnd, c.events.Sublist [.load a b, .renderAck, .cycle keys rnd, .tick] := by
  have optional {α : Type} (o : Option α) (d : α) (f : α → HostEvent) : (o.map f).toList.Sublist [f (o.getD d)] := by
    cases o <;> simp
  have enabled (b : Bool) (e : HostEvent) : (if b then [e] else []).Sublist [e] := by
    cases b <;> simp
  refine ⟨(c.load.getD (0, 0)).1, (c.load.getD (0, 0)).2, (c.cycle.getD (0, 0)).1, (c.cycle.getD (0, 0)).2, ?_⟩
  rw [ClockEdge.events, h]
  exact (((optional c.load _ _).append (enabled c.renderAck _)).append (optional c.cycle _ _)).append (enabled c.tick _)

theorem ClockEdge.pairwise_events {c : ClockEdge} (h : c.rst = false) :
    c.events.Pairwise (fun e e' => edgePlace e < edgePlace e') := by
  obtain ⟨a, b, keys, rnd, hsub⟩ := ClockEdge.events_sublist h
  exact List.Pairwise.sublist hsub (by simp [edgePlace])

/-- Settles O56: membership says which events, and no event repeats since none is before itself in the order. -/
theorem edgeOrdersItsEvents : Obligations.EdgeOrdersItsEvents := by
  refine fun c => ⟨ClockEdge.events_of_rst, fun h => ?_⟩
  have hmem := ClockEdge.mem_events h
  have hpair := ClockEdge.pairwise_events h
  refine ⟨by simp [hmem], fun a b => by simp [hmem], by simp [hmem], fun k b => by simp [hmem], by simp [hmem],
    hpair.imp fun hlt heq => ?_, hpair⟩
  subst heq
  exact lt_irrefl _ hlt

end Sys2Proof.Machine
end

section
/-! Flags, the random byte and the keys (spec/41_alu.md R148 to R152, R160, R162; spec/44_timers_keys.md R214 to R217). -/

namespace Sys2Proof.Machine

/-! The values of the flags. -/

theorem flagByte_toNat (c : Bool) : (flagByte c).toNat = if c then 1 else 0 := by
  cases c <;> rfl

theorem carry_toNat (a b : Byte) : (carry a b).toNat = if a.toNat + b.toNat > 255 then 1 else 0 := by
  simp only [carry, flagByte_toNat, decide_eq_true_eq]

theorem noBorrow_toNat (a b : Byte) : (noBorrow a b).toNat = if a.toNat ≥ b.toNat then 1 else 0 := by
  simp only [noBorrow, flagByte_toNat, decide_eq_true_eq]

theorem lowBit_toNat (a : Byte) : (lowBit a).toNat = a.toNat % 2 := by
  rw [lowBit, flagByte_toNat, BitVec.getLsbD, Nat.testBit_zero]
  rcases Nat.mod_two_eq_zero_or_one a.toNat with h | h <;> simp [h]

theorem highBit_toNat (a : Byte) : (highBit a).toNat = a.toNat / 128 := by
  have ha := a.isLt
  rw [highBit, flagByte_toNat, BitVec.getLsbD, Nat.testBit_eq_decide_div_mod_eq]
  simp only [decide_eq_true_eq]
  split <;> omega

/-! The results that are no flag. -/

theorem toNat_sub_eq_emod (a b : Byte) : ((a - b).toNat : Int) = (a.toNat - b.toNat : Int) % 256 := by
  have ha := a.isLt
  have hb := b.isLt
  rw [BitVec.toNat_sub]
  omega

theorem toNat_shiftRight_one (a : Byte) : (a >>> 1).toNat = a.toNat / 2 := by
  rw [BitVec.toNat_ushiftRight, Nat.shiftRight_eq_div_pow]

theorem toNat_shiftLeft_one (a : Byte) : (a <<< 1).toNat = a.toNat * 2 % 256 := by
  rw [BitVec.toNat_shiftLeft, Nat.shiftLeft_eq]

/-! The two write orders: what each leaves in VX and VF, and their frames. -/

/-- The result first, the flag second: 8XY4. -/
theorem exec_of_resultThenFlag {i : Instr} {s : State} {x : Reg} {result flag : Byte}
    (h : exec i s = .next (resultThenFlag x result flag s)) :
    ∃ t, exec i s = .next t ∧ (x ≠ VF → readV t x = result) ∧ readV t VF = flag ∧
      SameRegsBut (fun r => r = x ∨ r = VF) s t ∧ OnlyRegs s t := by
  refine ⟨_, h, fun hx => ?_, ?_, fun r hr => ?_, resultThenFlag_eq x result flag s, fun _ => rfl⟩
  · rw [readV_resultThenFlag, if_neg hx, if_pos rfl]
  · rw [readV_resultThenFlag, if_pos rfl]
  · rw [readV_resultThenFlag, if_neg fun e => hr (.inr e), if_neg fun e => hr (.inl e)]

/-- The flag first, the result second: 8XY5, 8XY6, 8XY7, 8XYE. -/
theorem exec_of_flagThenResult {i : Instr} {s : State} {x : Reg} {flag result : Byte}
    (h : exec i s = .next (flagThenResult x flag result s)) :
    ∃ t, exec i s = .next t ∧ readV t x = result ∧ (x ≠ VF → readV t VF = flag) ∧
      SameRegsBut (fun r => r = x ∨ r = VF) s t ∧ OnlyRegs s t := by
  refine ⟨_, h, ?_, fun hx => ?_, fun r hr => ?_, flagThenResult_eq x flag result s, fun _ => rfl⟩
  · rw [readV_flagThenResult, if_pos rfl]
  · rw [readV_flagThenResult, if_neg hx.symm, if_pos rfl]
  · rw [readV_flagThenResult, if_neg fun e => hr (.inl e), if_neg fun e => hr (.inr e)]

/-- Settles O23: 8XY4 writes the sum, then the carry. -/
theorem addSetsSumAndCarry : Obligations.AddSetsSumAndCarry := by
  intro s x y
  obtain ⟨t, hexec, hx, hVF, hframe⟩ := exec_of_resultThenFlag (i := .addReg x y) (s := s) rfl
  refine ⟨t, hexec, fun h => ?_, ?_, hframe⟩
  · rw [hx h, BitVec.toNat_add]
  · rw [hVF, carry_toNat]

/-- A subtraction of either order: "no borrow", then the difference. -/
theorem exec_subtraction {i : Instr} {s : State} {x : Reg} {a b : Byte}
    (h : exec i s = .next (flagThenResult x (noBorrow a b) (a - b) s)) :
    ∃ t, exec i s = .next t ∧ ((readV t x).toNat : Int) = (a.toNat - b.toNat : Int) % 256 ∧
      (x ≠ VF → (readV t VF).toNat = if a.toNat ≥ b.toNat then 1 else 0) ∧
      SameRegsBut (fun r => r = x ∨ r = VF) s t ∧ OnlyRegs s t := by
  obtain ⟨t, hexec, hx, hVF, hframe⟩ := exec_of_flagThenResult h
  refine ⟨t, hexec, ?_, fun hne => ?_, hframe⟩
  · rw [hx, toNat_sub_eq_emod]
  · rw [hVF hne, noBorrow_toNat]

/-- Settles O24: 8XY5 and 8XY7 are one subtraction with the sources exchanged. -/
theorem subtractSetsDifferenceAndNoBorrow : Obligations.SubtractSetsDifferenceAndNoBorrow :=
  fun _ _ _ => ⟨exec_subtraction rfl, exec_subtraction rfl⟩

/-- Settles O25: each shift writes the bit shifted out, then the shifted byte. -/
theorem shiftsMoveOneBitIntoVF : Obligations.ShiftsMoveOneBitIntoVF := by
  intro s x y
  constructor
  · obtain ⟨t, hexec, hx, hVF, hframe⟩ := exec_of_flagThenResult (i := .shr x y) (s := s) rfl
    refine ⟨t, hexec, ?_, fun hne => ?_, hframe⟩
    · rw [hx, toNat_shiftRight_one]
    · rw [hVF hne, lowBit_toNat]
  · obtain ⟨t, hexec, hx, hVF, hframe⟩ := exec_of_flagThenResult (i := .shl x y) (s := s) rfl
    refine ⟨t, hexec, ?_, fun hne => ?_, hframe⟩
    · rw [hx, toNat_shiftLeft_one]
    · rw [hVF hne, highBit_toNat]

/-- Settles O26: CXNN is one write of VX. -/
theorem randomByteIsMasked : Obligations.RandomByteIsMasked := by
  intro s x nn
  obtain ⟨t, hexec, hx, hframe⟩ := exec_of_writeV (i := .rnd x nn) (s := s) rfl
  refine ⟨t, hexec, fun k => ?_, hframe⟩
  rw [hx, BitVec.getLsbD_and]

/-! The key input. -/

theorem pressed_of_le {s : State} {k : Byte} (h : k.toNat ≤ 15) : pressed s k = s.keys.getLsbD k.toNat :=
  if_pos h

theorem pressed_notPressed {s : State} {k : Byte} (h : 15 < k.toNat) (hoor : s.config.keyOor = .notPressed) :
    pressed s k = false := by
  rw [pressed, if_neg (Nat.not_le.2 h), hoor]

theorem pressed_lowNibble {s : State} {k : Byte} (h : 15 < k.toNat) (hoor : s.config.keyOor = .lowNibble) :
    pressed s k = s.keys.getLsbD (k.toNat % 16) := by
  rw [pressed, if_neg (Nat.not_le.2 h), hoor]

/-- Settles O44: both are skips on `pressed`, one on it and one on its negation. -/
theorem keySkips : Obligations.KeySkips := by
  intro s x
  refine ⟨pressed s (readV s x), pressed_of_le, pressed_notPressed, pressed_lowNibble,
    ⟨_, exec_of_skipCondition rfl, skipIf_pc _ s, onlyPc_skipIf _ s⟩,
    ⟨_, exec_of_skipCondition rfl, ?_, onlyPc_skipIf _ s⟩⟩
  rw [skipIf_pc]
  cases pressed s (readV s x) <;> rfl

/-- Settles O45: an empty sample goes back by 2, any other gives its lowest key to VX. -/
theorem keyWaitRetriesOrTakesTheLowestKey : Obligations.KeyWaitRetriesOrTakesTheLowestKey := by
  intro s x
  by_cases hkeys : s.keys = 0
  · exact ⟨_, exec_ldVxK_no_key x hkeys, fun _ => ⟨rfl, onlyPc_setPc _ s⟩, fun h => absurd hkeys h⟩
  · obtain ⟨t, hexec, hx, hframe⟩ := exec_of_writeV (exec_ldVxK_key x hkeys)
    obtain ⟨hlt, hpressed, hlowest⟩ := lowestKey_spec s.keys hkeys
    refine ⟨t, hexec, fun h => absurd h hkeys, fun _ => ?_⟩
    rw [hx]
    exact ⟨hlt, hpressed, hlowest, hframe⟩

end Sys2Proof.Machine
end

section
/-! Who writes VF (spec/10_state.md section 3) and who reads the samples of a cycle (spec/10_state.md R40, R41). -/

namespace Sys2Proof.Machine

/-! VF. -/

theorem eq_of_readV_writeV_ne {x r : Reg} {b : Byte} {s : State} (h : readV (writeV x b s) r ≠ readV s r) : x = r := by
  by_contra hne
  exact h (readV_writeV_other b s (Ne.symm hne))

theorem le_of_readV_loadRegs_ne {x r : Reg} {s : State} (h : readV (loadRegs s (x.val + 1)) r ≠ readV s r) : r ≤ x := by
  by_contra hle
  exact h (readV_loadRegs_gt hle)

/-- Settles O48: a write of VX changes VF only if X is F, a load reaches VF only if X is F, and by the frames the
instructions not on the list and without such a write leave the registers. -/
theorem vfChangesOnlyWhenWritten : Obligations.VFChangesOnlyWhenWritten := by
  intro s t i h hne
  have hframe := frameOf_exec h
  cases i with
  | addReg | subReg | shr | subn | shl | drw => simp
  | ldByte x | addByte x | rnd x | ldReg x | orReg x | andReg x | xorReg x | ldVxDt x =>
    cases h
    obtain rfl := eq_of_readV_writeV_ne hne
    simp
  | ldVxK x =>
    by_cases hkeys : s.keys = 0
    · cases (exec_ldVxK_no_key x hkeys).symm.trans h
      exact absurd rfl hne
    · cases (exec_ldVxK_key x hkeys).symm.trans h
      obtain rfl := eq_of_readV_writeV_ne hne
      simp
  | ldVxMem x =>
    cases h
    obtain rfl : x = VF := Fin.last_le_iff.1 (le_of_readV_loadRegs_ne hne)
    simp
  | _ =>
    rw [hframe] at hne
    exact absurd rfl hne

/-! The samples. -/

/-- The state with other samples latched. -/
def latch (keys : BitVec 16) (rnd : Byte) (s : State) : State := { s with keys := keys, rnd := rnd }

section
variable (keys : BitVec 16) (rnd : Byte) (s : State)

/-! The loops read no sample. -/

theorem storeRegs_latch (n : Nat) : storeRegs (latch keys rnd s) n = latch keys rnd (storeRegs s n) := by
  induction n with
  | zero => rfl
  | succ n ih => rw [storeRegs, ih]; rfl

theorem storeDigits_latch (vx : Byte) (n : Nat) :
    storeDigits (latch keys rnd s) vx n = latch keys rnd (storeDigits s vx n) := by
  induction n with
  | zero => rfl
  | succ n ih => rw [storeDigits, ih]; rfl

theorem loadRegs_latch (n : Nat) : loadRegs (latch keys rnd s) n = latch keys rnd (loadRegs s n) := by
  induction n with
  | zero => rfl
  | succ n ih => rw [loadRegs, ih]; rfl

theorem drawRows_latch (ox oy fuel row : Nat) (acc : Display × Bool) :
    drawRows (latch keys rnd s) ox oy fuel row acc = drawRows s ox oy fuel row acc := by
  induction fuel generalizing row acc with
  | zero => rfl
  | succ fuel ih => rw [drawRows, drawRows, ih]; rfl

theorem skipIf_latch (c : Bool) : skipIf c (latch keys rnd s) = latch keys rnd (skipIf c s) := by
  cases c <;> rfl

end

/-- An instruction commutes with latching other samples, unless it reads a sample that differs. -/
theorem exec_latch {i : Instr} {s t : State} {keys : BitVec 16} {rnd : Byte} (h : exec i s = .next t)
    (hrnd : (∃ x nn, i = .rnd x nn) → rnd = s.rnd)
    (hkeys : (∃ x, i = .skp x ∨ i = .sknp x ∨ i = .ldVxK x) → keys = s.keys) :
    exec i (latch keys rnd s) = .next (latch keys rnd t) := by
  cases i with
  | rnd x nn =>
    obtain rfl := hrnd ⟨x, nn, rfl⟩
    cases h
    rfl
  | skp x =>
    obtain rfl := hkeys ⟨x, by simp⟩
    cases h
    exact congrArg _ (skipIf_latch s.keys rnd s _)
  | sknp x =>
    obtain rfl := hkeys ⟨x, by simp⟩
    cases h
    exact congrArg _ (skipIf_latch s.keys rnd s _)
  | ldVxK x =>
    obtain rfl := hkeys ⟨x, by simp⟩
    by_cases hkey : s.keys = 0
    · cases (exec_ldVxK_no_key x hkey).symm.trans h
      exact exec_ldVxK_no_key x hkey
    · cases (exec_ldVxK_key x hkey).symm.trans h
      exact exec_ldVxK_key x hkey
  | seByte | sneByte | seReg | sneReg =>
    cases h
    exact congrArg _ (skipIf_latch keys rnd s _)
  | call nnn =>
    by_cases hsp : s.sp = s.config.stackDepth
    · cases (exec_call_full nnn hsp).symm.trans h
      exact exec_call_full nnn hsp
    · cases (exec_call_room nnn hsp).symm.trans h
      exact exec_call_room nnn hsp
  | ret =>
    by_cases hsp : s.sp = 0
    · cases (exec_ret_empty hsp).symm.trans h
      exact exec_ret_empty hsp
    · cases (exec_ret_active hsp).symm.trans h
      exact exec_ret_active hsp
  | drw x y n =>
    cases h
    simp only [exec, execDrw, drawn, drawRows_latch]
    rfl
  | ldB x =>
    cases h
    exact congrArg _ (storeDigits_latch keys rnd s _ _)
  | ldMemVx x =>
    cases h
    exact congrArg _ (storeRegs_latch keys rnd s _)
  | ldVxMem x =>
    cases h
    exact congrArg _ (loadRegs_latch keys rnd s _)
  | _ =>
    cases h
    rfl

/-- Settles O49: each clause latches one other sample and keeps the other. -/
theorem samplesReachOnlyTheirReaders : Obligations.SamplesReachOnlyTheirReaders := by
  intro s t i keys rnd h
  obtain ⟨-, hkeys, hrnd, -, -, -⟩ := exec_leaves_inputs h
  constructor
  · intro hi
    have ht : latch s.keys rnd t = { t with rnd := rnd } := by rw [latch, ← hkeys]
    exact ht ▸ exec_latch h (fun ⟨x, nn, e⟩ => absurd e (hi x nn)) fun _ => rfl
  · intro hskp hsknp hwait
    have ht : latch keys s.rnd t = { t with keys := keys } := by rw [latch, ← hrnd]
    refine ht ▸ exec_latch h (fun _ => rfl) ?_
    rintro ⟨x, e | e | e⟩
    · exact absurd e (hskp x)
    · exact absurd e (hsknp x)
    · exact absurd e (hwait x)

end Sys2Proof.Machine
end

section
/-! The sprite compositor (spec/43_display.md R193 to R198). A piece of the draw flips a set of cells and reports a collision
when a cell of the set was lit; two pieces on disjoint sets flip the union. A lit sprite bit, a row and the sprite are
such pieces, and the sprite's set is the closed form `spriteCovers`. -/

namespace Sys2Proof.Machine

/-- From `acc` to `acc'` exactly the cells of `c` were flipped, and one that was lit is a collision. -/
structure Flips (c : Nat → Nat → Bool) (acc acc' : Display × Bool) : Prop where
  cells : ∀ x y, pixel acc'.1 x y = (pixel acc.1 x y ^^ c x y)
  collision : acc'.2 = true ↔ acc.2 = true ∨ ∃ x y, c x y = true ∧ pixel acc.1 x y = true

/-- Nothing drawn flips no cell. -/
theorem flips_refl {c : Nat → Nat → Bool} (acc : Display × Bool) (h : ∀ x y, c x y = false) : Flips c acc acc :=
  ⟨fun _ _ => by simp [h], by simp [h]⟩

/-- The second piece's cells are as they were before the first, so it meets the lit cells the first left alone. -/
theorem Flips.trans {c d e : Nat → Nat → Bool} {acc acc' acc'' : Display × Bool} (h : Flips c acc acc')
    (h' : Flips d acc' acc'') (hdisjoint : ∀ x y, c x y = true → d x y = false)
    (hunion : ∀ x y, e x y = (c x y || d x y)) : Flips e acc acc'' := by
  have hd {x y : Nat} (hxy : d x y = true) : c x y = false := by
    cases hc : c x y with
    | false => rfl
    | true => exact absurd hxy (by simp [hdisjoint x y hc])
  constructor
  · intro x y
    rw [h'.cells, h.cells, hunion]
    cases hxy : d x y with
    | false => simp
    | true => simp [hd hxy]
  · rw [h'.collision, h.collision, or_assoc]
    refine or_congr_right ⟨?_, ?_⟩
    · rintro (⟨x, y, hc, hp⟩ | ⟨x, y, hxy, hp⟩)
      · exact ⟨x, y, by simp [hunion, hc], hp⟩
      · refine ⟨x, y, by simp [hunion, hxy], ?_⟩
        simpa [h.cells, hd hxy] using hp
    · rintro ⟨x, y, he, hp⟩
      rw [hunion, Bool.or_eq_true] at he
      rcases he with hc | hxy
      · exact .inl ⟨x, y, hc, hp⟩
      · exact .inr ⟨x, y, hxy, by simp [h.cells, hd hxy, hp]⟩

/-- A sprite bit is its cell if it is lit, and else none (R196). -/
def bitCovers (lit : Bool) (ox oy x y : Nat) : Bool := lit && decide (x = ox) && decide (y = oy)

theorem flips_bit (lit : Bool) (acc : Display × Bool) {ox oy : Nat} (h : ox < 64 ∧ oy < 32) :
    Flips (bitCovers lit ox oy) acc (if lit then plot acc ox oy else acc) := by
  cases lit with
  | false => exact flips_refl acc fun _ _ => rfl
  | true =>
    constructor
    · intro x y
      rw [if_pos rfl, pixel_plot acc ox oy x y h]
      by_cases hxy : x = ox ∧ y = oy
      · obtain ⟨rfl, rfl⟩ := hxy
        simp [bitCovers]
      · have hoff : bitCovers true ox oy x y = false := by
          simpa [bitCovers] using hxy
        rw [if_neg hxy, hoff, Bool.xor_false]
    · simp [plot, bitCovers]

/-- The cells of `fuel` columns of one sprite row from column `col` on, cut at the right edge (R195). -/
def rowCovers (b : Byte) (ox ty fuel col x y : Nat) : Bool :=
  decide (y = ty) && decide (ox + col ≤ x) && decide (x < ox + col + fuel) && decide (x < 64) && spriteBit b (x - ox)

theorem rowCovers_of_ge (b : Byte) {ox col : Nat} (ty fuel x y : Nat) (h : 64 ≤ ox + col) :
    rowCovers b ox ty fuel col x y = false := by
  grind [rowCovers]

/-- One column more is the bit of the first and the columns after it, which are further right. -/
theorem rowCovers_succ (b : Byte) {ox col : Nat} (ty fuel x y : Nat) (h : ox + col < 64) :
    rowCovers b ox ty (fuel + 1) col x y =
      (bitCovers (spriteBit b col) (ox + col) ty x y || rowCovers b ox ty fuel (col + 1) x y) := by
  grind [bitCovers, rowCovers]

theorem rowCovers_of_bitCovers (b : Byte) {lit : Bool} {ox ty fuel col x y : Nat}
    (h : bitCovers lit (ox + col) ty x y = true) : rowCovers b ox ty fuel (col + 1) x y = false := by
  grind [bitCovers, rowCovers]

theorem flips_drawRow (b : Byte) (ox : Nat) {ty : Nat} (hty : ty < 32) (fuel col : Nat) (acc : Display × Bool) :
    Flips (rowCovers b ox ty fuel col) acc (drawRow b ox ty fuel col acc) := by
  induction fuel generalizing col acc with
  | zero => exact flips_refl acc fun x y => by grind [rowCovers]
  | succ fuel ih =>
    rw [drawRow]
    split
    case isTrue hclip => exact flips_refl acc fun x y => rowCovers_of_ge b ty (fuel + 1) x y hclip
    case isFalse hclip =>
      have hcol : ox + col < 64 := by omega
      exact (flips_bit (spriteBit b col) acc ⟨hcol, hty⟩).trans (ih (col + 1) _) (fun _ _ => rowCovers_of_bitCovers b)
        fun x y => rowCovers_succ b ty fuel x y hcol

/-- The cells of `fuel` rows of the sprite at I from row `row` on, cut at both edges (R194, R195). -/
def rowsCover (s : State) (ox oy fuel row x y : Nat) : Bool :=
  decide (oy + row ≤ y) && decide (y < oy + row + fuel) && decide (y < 32) &&
    rowCovers (memRead s (ea s (y - oy))) ox y 8 0 x y

theorem rowsCover_of_ge (s : State) {oy row : Nat} (ox fuel x y : Nat) (h : 32 ≤ oy + row) :
    rowsCover s ox oy fuel row x y = false := by
  grind [rowsCover]

/-- One row more is the first and the rows after it, which are further down. -/
theorem rowsCover_succ (s : State) {oy row : Nat} (ox fuel x y : Nat) (h : oy + row < 32) :
    rowsCover s ox oy (fuel + 1) row x y =
      (rowCovers (memRead s (ea s row)) ox (oy + row) 8 0 x y || rowsCover s ox oy fuel (row + 1) x y) := by
  grind [rowCovers, rowsCover]

theorem rowsCover_of_rowCovers (s : State) {b : Byte} {ox oy fuel row x y : Nat}
    (h : rowCovers b ox (oy + row) 8 0 x y = true) : rowsCover s ox oy fuel (row + 1) x y = false := by
  grind [rowCovers, rowsCover]

theorem flips_drawRows (s : State) (ox oy fuel row : Nat) (acc : Display × Bool) :
    Flips (rowsCover s ox oy fuel row) acc (drawRows s ox oy fuel row acc) := by
  induction fuel generalizing row acc with
  | zero => exact flips_refl acc fun x y => by grind [rowsCover]
  | succ fuel ih =>
    rw [drawRows]
    split
    case isTrue hclip => exact flips_refl acc fun x y => rowsCover_of_ge s ox (fuel + 1) x y hclip
    case isFalse hclip =>
      have hrow : oy + row < 32 := by omega
      exact (flips_drawRow (memRead s (ea s row)) ox hrow 8 0 acc).trans (ih (row + 1) _)
        (fun _ _ => rowsCover_of_rowCovers s) fun x y => rowsCover_succ s ox fuel x y hrow

theorem rowsCover_eq_spriteCovers (s : State) (vx vy : Byte) (n x y : Nat) :
    rowsCover s (vx.toNat % 64) (vy.toNat % 32) n 0 x y = spriteCovers s vx vy n x y := by
  grind [rowsCover, rowCovers, spriteCovers, spriteBit]

/-- A draw flips the cells the clipped sprite covers (R193 to R196). -/
theorem flips_drawn (s : State) (vx vy : Byte) (n : Nat) :
    Flips (spriteCovers s vx vy n) (s.fb, false) (drawn s vx vy n) := by
  have hset : rowsCover s (vx.toNat % 64) (vy.toNat % 32) n 0 = spriteCovers s vx vy n :=
    funext fun x => funext (rowsCover_eq_spriteCovers s vx vy n x)
  exact hset ▸ flips_drawRows s (vx.toNat % 64) (vy.toNat % 32) n 0 (s.fb, false)

/-! DXYN. -/

/-- Some covered cell has the value `b`. -/
def SomeCovered (s : State) (vx vy : Byte) (n : Nat) (b : Bool) : Prop :=
  ∃ cx cy, spriteCovers s vx vy n cx cy = true ∧ pixel s.fb cx cy = b

theorem drawn_collision (s : State) (vx vy : Byte) (n : Nat) :
    (drawn s vx vy n).2 = true ↔ SomeCovered s vx vy n true := by
  simp [(flips_drawn s vx vy n).collision, SomeCovered]

theorem flagByte_eq_one (c : Bool) : flagByte c = 1 ↔ c = true := by
  cases c <;> decide

theorem flagByte_eq_zero (c : Bool) : flagByte c = 0 ↔ ¬c = true := by
  cases c <;> decide

/-- What DXYN answers: the covered cells flipped, VF the collision, and its frame. -/
theorem exec_drw (s : State) (x y : Reg) (n : Fin 16) : ∃ t, exec (.drw x y n) s = .next t ∧
    (∀ cx cy, pixel t.fb cx cy = (pixel s.fb cx cy ^^ spriteCovers s (readV s x) (readV s y) n.val cx cy)) ∧
    (readV t VF = 1 ↔ SomeCovered s (readV s x) (readV s y) n.val true) ∧
    (readV t VF = 0 ↔ ¬SomeCovered s (readV s x) (readV s y) n.val true) ∧
    SameRegsBut (· = VF) s t ∧ t.dirty = true ∧ t = { s with v := t.v, fb := t.fb, dirty := true } ∧
    SameMemory s t := by
  refine ⟨_, rfl, (flips_drawn s _ _ _).cells, ?_, ?_, sameRegsBut_writeV VF _ _, rfl, rfl, fun _ => rfl⟩
  · rw [readV_writeV_same, flagByte_eq_one, drawn_collision]
  · rw [readV_writeV_same, flagByte_eq_zero, drawn_collision]

/-- Settles O37: the loop of R193 flips the closed form's cells. -/
theorem drawFlipsTheCoveredCells : Obligations.DrawFlipsTheCoveredCells := by
  intro s x y n
  obtain ⟨t, hexec, hcells, hone, hzero, hframe⟩ := exec_drw s x y n
  exact ⟨t, hexec, fun cx cy _ _ => hcells cx cy, hone.2, hzero.2, hframe⟩

/-- The covered cells depend on memory, I and the origin modulo the display's size (R194, R195). -/
theorem spriteCovers_congr {s t : State} {vx vy vx' vy' : Byte} (hmem : SameMemory s t) (hi : t.i = s.i)
    (hx : vx'.toNat % 64 = vx.toNat % 64) (hy : vy'.toNat % 32 = vy.toNat % 32) (n : Nat) :
    spriteCovers t vx' vy' n = spriteCovers s vx vy n := by
  funext cx cy
  simp only [spriteCovers, hx, hy, hmem _, ea_congr hi]

/-- Settles O38: the second draw covers the same cells, so each is flipped twice, and it meets a lit cell where the first
left one lit. -/
theorem drawingTwiceRestoresTheBuffer : Obligations.DrawingTwiceRestoresTheBuffer := by
  intro s t u x y n ht hu hx hy
  obtain ⟨t', ht', hcells, -, -, -, -, hframe, hmem⟩ := exec_drw s x y n
  cases ht'.symm.trans ht
  obtain ⟨u', hu', hcells', hone, -⟩ := exec_drw t x y n
  cases hu'.symm.trans hu
  have hi : t.i = s.i := by rw [hframe]
  have hcovers := spriteCovers_congr hmem hi hx hy n.val
  constructor
  · refine display_ext fun cx cy _ _ => ?_
    rw [hcells', hcovers, hcells, Bool.xor_assoc, Bool.xor_self, Bool.xor_false]
  · rw [hone, SomeCovered, hcovers]
    refine exists_congr fun cx => exists_congr fun cy => and_congr_right fun hcov => ?_
    rw [hcells, hcov, Bool.xor_true, Bool.not_eq_true']

end Sys2Proof.Machine
end
